-- ==== Sys2Proof/Word.lean ====
section
/-! DEFINITION. The word types of the block (00_scope.md R10, R12): bytes, CPU addresses, command words. -/

namespace Sys2Proof

/-- A `u8`: one byte of RAM, of a cartridge image or on a data port (R10 DATA_WIDTH). -/
abbrev Byte := BitVec 8

/-- A `u16` CPU address, 0x0000–0xFFFF (R10 ADDR_WIDTH, 20_memory.md R40). -/
abbrev Addr := BitVec 16

/-- A `u32` command word on the port `cmd` (30_encoding.md R70, R71). -/
abbrev Word := BitVec 32

end Sys2Proof
end

