-- ==== Sys2Proof/Config.lean ====
section
/-! DEFINITION. What is fixed before power-on and changed by no command (00_scope.md R10, 70_reset_and_hazards.md R222):
the parameters that are plain data (`Params`, held by the machine's state so that every claim is about every value of
them), and the two parameters the spec leaves OPEN (free values with no body). -/

namespace Sys2Proof.Config

/-- The mapper kinds a registry entry may name (42_mapper.md R121). The spec defines one, the reference mapper
FixedBank; R135 adds a mapper by adding a kind here with its six operations and its constructor. -/
inductive MapperKind where
  | fixedBank
  deriving DecidableEq, Repr

/-- DEVICES (R10, 60_exceptions.md R206): null devices, or external ones that drive `ppu_rdata` and `apuio_rdata`. -/
inductive Devices where
  | null
  | external
  deriving DecidableEq, Repr

/-- HEADER_MAGIC (R10, 30_encoding.md R89): the four bytes a cartridge header begins with. -/
structure Magic where
  b0 : Byte
  b1 : Byte
  b2 : Byte
  b3 : Byte
  deriving DecidableEq, Repr

/-- REGISTRY (42_mapper.md R121), the function from mapper id to kind or none, as a table: entry `id` of the list is
the kind registered for `id`, and an id past the list's end has none. One entry an id, so no table registers an id twice. -/
abbrev Registry := List (Option MapperKind)

/-- The parameters of R10 that are plain data. CHR_BANK_SIZE is read by no command (R10, R88). -/
structure Params where
  headerMagic   : Magic
  registry      : Registry
  devices       : Devices
  nullReadValue : Byte
  vecReset      : Addr
  vecNmi        : Addr
  vecIrqBrk     : Addr
  chrBankSize   : Nat
  deriving DecidableEq, Repr

/-- The default of every parameter: R10's table (HEADER_MAGIC, the vectors and CHR_BANK_SIZE are the spec's values from
general knowledge, 93_implementation_defined.md G1–G3); DEVICES = NULL is the default 95_test_vectors.md lists. -/
def defaults : Params where
  headerMagic   := ⟨0x4E, 0x45, 0x53, 0x1A⟩
  registry      := [some .fixedBank]
  devices       := .null
  nullReadValue := 0x00
  vecReset      := 0xFFFC
  vecNmi        := 0xFFFA
  vecIrqBrk     := 0xFFFE
  chrBankSize   := 0x2000

/-- OPEN_BUS (20_memory.md R47, R58), OPEN: a function of the address alone, fixed for the run. A free value (log
entry 2): no body, so no claim can rest on any of its values. -/
opaque openBus : Addr → Byte

/-- RAM_INIT (10_state.md R23, 70_reset_and_hazards.md R220), OPEN: the power-on byte of each RAM index. A free value
(log entry 3): no body, so no claim can rest on any of its values. -/
opaque ramInit : BitVec 11 → Byte

end Sys2Proof.Config
end

