-- ==== Sys2Proof/Syntax.lean ====
section
/-! DEFINITION. The commands of the block, one constructor per row of spec/opcode_table.json (30_encoding.md R73), and
the pseudo-instructions of the assembler syntax (R94–R96). -/

namespace Sys2Proof

/-- A set of pending interrupt sources (30_encoding.md R77): bit 0 Reset, bit 1 NMI, bit 2 IRQ, bit 3 BRK. -/
abbrev PendingSet := BitVec 4

/-- The field CART.INFO reads (41_cartridge.md R107), in the order of its index 0–3. -/
inductive InfoField where
  | flags
  | prgBankCount
  | chrBankCount
  | mapperId
  deriving DecidableEq, Repr

/-- One command of the block (30_encoding.md R73, R80). The operands have the widths R80 gives them, so a term of this
type is a command the encoding can express. -/
inductive Instr where
  /-- BUS.READ (43_bus.md R140). -/
  | busRead (a : Addr)
  /-- BUS.PEEK (R141). -/
  | busPeek (a : Addr)
  /-- BUS.WRITE (R142). -/
  | busWrite (a : Addr) (d : Byte)
  /-- MAP.READPRG (42_mapper.md R128). -/
  | mapReadPrg (a : Addr)
  /-- MAP.PEEKPRG (R129). -/
  | mapPeekPrg (a : Addr)
  /-- MAP.WRITEPRG (R130). -/
  | mapWritePrg (a : Addr) (d : Byte)
  /-- MAP.READCHR (R131). -/
  | mapReadChr (a : Addr)
  /-- MAP.PEEKCHR (R132). -/
  | mapPeekChr (a : Addr)
  /-- MAP.WRITECHR (R133). -/
  | mapWriteChr (a : Addr) (d : Byte)
  /-- VEC.RESOLVE (44_vector.md R150). -/
  | vecResolve (m : PendingSet)
  /-- VID.STEP (45_video.md R161). -/
  | vidStep
  /-- VID.TAKE (R163). -/
  | vidTake
  /-- VID.RDDOT (R164). -/
  | vidRddot
  /-- VID.RDLINE (R165). -/
  | vidRdline
  /-- VID.PEEKFR (R166). -/
  | vidPeekfr
  /-- CART.LOAD (41_cartridge.md R104); its image is not in the word but on the port `img`. -/
  | cartLoad
  /-- CART.UNLOAD (R106). -/
  | cartUnload
  /-- CART.INFO (R107). -/
  | cartInfo (i : InfoField)
  /-- SYS.FAULTS (46_system.md R182). -/
  | sysFaults
  deriving DecidableEq, Repr

/-- What one line of assembler text can ask for (30_encoding.md R92, R94–R96): a command, or a pseudo-instruction. -/
inductive Line where
  | command (i : Instr)
  /-- VID.STEPN n (R94). -/
  | vidStepN (n : Nat)
  /-- VID.FRAME (R95). -/
  | vidFrame
  /-- VEC.FETCH with a set (R96). -/
  | vecFetch (m : PendingSet)
  deriving DecidableEq, Repr

/-- The four fields of a command word (30_encoding.md R71). -/
structure Fields where
  unit : BitVec 4
  op   : BitVec 4
  a    : Addr
  d    : Byte
  deriving DecidableEq, Repr

/-- Why a word is no command (30_encoding.md R79): the three classes of reserved and illegal encodings. -/
inductive CommandFlaw where
  /-- UNIT 0x6–0xF (R72). -/
  | reservedUnit
  /-- An OP the unit does not have. -/
  | reservedOp
  /-- A must-be-zero bit is set (R74). -/
  | nonzeroField
  deriving DecidableEq, Repr

end Sys2Proof
end

