-- ==== Sys2Proof/WellFormed.lean ====
section
/-! DEFINITION. Which command fields, assembler lines and parameter sets are well formed. Each check stands alone and
has a term it refuses in Tests/Slice0.lean. -/

namespace Sys2Proof

/-- The unit is one of BUS, MAP, VEC, VID, CART, SYS (30_encoding.md R72). -/
def Fields.unitKnown (f : Fields) : Bool := f.unit.toNat ≤ 5

/-- How many OP values, counted from 0, each unit has (30_encoding.md R73, R79). -/
def opCount (unit : BitVec 4) : Nat :=
  match unit.toNat with
  | 0 => 3
  | 1 => 6
  | 2 => 1
  | 3 => 5
  | 4 => 3
  | 5 => 1
  | _ => 0

/-- The unit has the operation (30_encoding.md R79). -/
def Fields.opKnown (f : Fields) : Bool := f.op.toNat < opCount f.unit

/-- The command has an address operand: every command of BUS and MAP and no other (30_encoding.md R73, column A). -/
def Fields.takesAddress (f : Fields) : Bool := f.unit.toNat ≤ 1

/-- The bits of D that must be zero (30_encoding.md R73, column D, and R74): none for the three writes, D[7:4] for
VEC.RESOLVE, D[7:2] for CART.INFO, all for the rest. -/
def Fields.zeroBitsOfD (f : Fields) : Byte :=
  match f.unit.toNat, f.op.toNat with
  | 0, 2 => 0x00
  | 1, 2 => 0x00
  | 1, 5 => 0x00
  | 2, 0 => 0xF0
  | 4, 2 => 0xFC
  | _, _ => 0xFF

/-- The must-be-zero bits of A are zero (30_encoding.md R74). -/
def Fields.addressZeroed (f : Fields) : Bool := f.takesAddress || f.a = 0

/-- The must-be-zero bits of D are zero (30_encoding.md R74). -/
def Fields.dataZeroed (f : Fields) : Bool := f.d &&& f.zeroBitsOfD = 0

/-- The fields are those of a command: they match a row of the opcode map (30_encoding.md R73, R74, R79). -/
def Fields.wf (f : Fields) : Bool :=
  f.unitKnown && f.opKnown && f.addressZeroed && f.dataZeroed

/-- A line assembles: VEC.FETCH needs a non-empty set (30_encoding.md R96), every other line always does. -/
def Line.wf : Line → Bool
  | .command _ => true
  | .vidStepN _ => true
  | .vidFrame => true
  | .vecFetch m => m ≠ 0

/-- The registry is a table over `u8` ids (42_mapper.md R121): it has at most 256 entries. -/
def Config.Params.wf (p : Config.Params) : Bool := p.registry.length ≤ 256

end Sys2Proof
end

