-- ==== Sys2Proof/Decode.lean ====
section
/-! DEFINITION. Command decode, total on every 32-bit word (30_encoding.md R78); the encoder from the opcode map (R73);
the opcode table itself as masks and matches. -/

namespace Sys2Proof

/-- The fields of a word (R71): UNIT 31:28, OP 27:24, A 23:8, D 7:0. -/
def fieldsOf (w : Word) : Fields where
  unit := w.extractLsb' 28 4
  op   := w.extractLsb' 24 4
  a    := w.extractLsb' 8 16
  d    := w.extractLsb' 0 8

/-- The word with the given fields (R71). -/
def Fields.pack (f : Fields) : Word := f.unit ++ f.op ++ f.a ++ f.d

/-- The CART.INFO field of an index (41_cartridge.md R107). -/
def InfoField.ofIndex (i : BitVec 2) : InfoField :=
  match i.toNat with
  | 0 => .flags
  | 1 => .prgBankCount
  | 2 => .chrBankCount
  | _ => .mapperId

/-- The index of a CART.INFO field (R107). -/
def InfoField.index : InfoField → BitVec 2
  | .flags => 0
  | .prgBankCount => 1
  | .chrBankCount => 2
  | .mapperId => 3

/-- `i` where the check holds; otherwise a must-be-zero bit is set (R74). -/
def orNonzero (ok : Bool) (i : Instr) : Except CommandFlaw Instr :=
  if ok then .ok i else .error .nonzeroField

/-- DecodeCmd on the fields (R78), naming why a word is ILLEGAL (R79). -/
def decodeFields (f : Fields) : Except CommandFlaw Instr :=
  match f.unit.toNat, f.op.toNat with
  | 0, 0 => orNonzero (f.d = 0) (.busRead f.a)
  | 0, 1 => orNonzero (f.d = 0) (.busPeek f.a)
  | 0, 2 => .ok (.busWrite f.a f.d)
  | 0, _ => .error .reservedOp
  | 1, 0 => orNonzero (f.d = 0) (.mapReadPrg f.a)
  | 1, 1 => orNonzero (f.d = 0) (.mapPeekPrg f.a)
  | 1, 2 => .ok (.mapWritePrg f.a f.d)
  | 1, 3 => orNonzero (f.d = 0) (.mapReadChr f.a)
  | 1, 4 => orNonzero (f.d = 0) (.mapPeekChr f.a)
  | 1, 5 => .ok (.mapWriteChr f.a f.d)
  | 1, _ => .error .reservedOp
  | 2, 0 => orNonzero (f.a = 0 && f.d.extractLsb' 4 4 = 0) (.vecResolve (f.d.extractLsb' 0 4))
  | 2, _ => .error .reservedOp
  | 3, 0 => orNonzero (f.a = 0 && f.d = 0) .vidStep
  | 3, 1 => orNonzero (f.a = 0 && f.d = 0) .vidTake
  | 3, 2 => orNonzero (f.a = 0 && f.d = 0) .vidRddot
  | 3, 3 => orNonzero (f.a = 0 && f.d = 0) .vidRdline
  | 3, 4 => orNonzero (f.a = 0 && f.d = 0) .vidPeekfr
  | 3, _ => .error .reservedOp
  | 4, 0 => orNonzero (f.a = 0 && f.d = 0) .cartLoad
  | 4, 1 => orNonzero (f.a = 0 && f.d = 0) .cartUnload
  | 4, 2 => orNonzero (f.a = 0 && f.d.extractLsb' 2 6 = 0) (.cartInfo (.ofIndex (f.d.extractLsb' 0 2)))
  | 4, _ => .error .reservedOp
  | 5, 0 => orNonzero (f.a = 0 && f.d = 0) .sysFaults
  | 5, _ => .error .reservedOp
  | _, _ => .error .reservedUnit

/-- Command decode of a word (R78): a command, or the reason the word is ILLEGAL. -/
def decode (w : Word) : Except CommandFlaw Instr := decodeFields (fieldsOf w)

/-- The fields a command is encoded with (R73). -/
def Instr.fields : Instr → Fields
  | .busRead a => ⟨0, 0, a, 0⟩
  | .busPeek a => ⟨0, 1, a, 0⟩
  | .busWrite a d => ⟨0, 2, a, d⟩
  | .mapReadPrg a => ⟨1, 0, a, 0⟩
  | .mapPeekPrg a => ⟨1, 1, a, 0⟩
  | .mapWritePrg a d => ⟨1, 2, a, d⟩
  | .mapReadChr a => ⟨1, 3, a, 0⟩
  | .mapPeekChr a => ⟨1, 4, a, 0⟩
  | .mapWriteChr a d => ⟨1, 5, a, d⟩
  | .vecResolve m => ⟨2, 0, 0, m.setWidth 8⟩
  | .vidStep => ⟨3, 0, 0, 0⟩
  | .vidTake => ⟨3, 1, 0, 0⟩
  | .vidRddot => ⟨3, 2, 0, 0⟩
  | .vidRdline => ⟨3, 3, 0, 0⟩
  | .vidPeekfr => ⟨3, 4, 0, 0⟩
  | .cartLoad => ⟨4, 0, 0, 0⟩
  | .cartUnload => ⟨4, 1, 0, 0⟩
  | .cartInfo i => ⟨4, 2, 0, i.index.setWidth 8⟩
  | .sysFaults => ⟨5, 0, 0, 0⟩

/-- The command's word (R73). -/
def encode (i : Instr) : Word := i.fields.pack

/-- An instruction is well formed when the fields it is encoded with are those of a row of the opcode map. -/
def Instr.wf (i : Instr) : Bool := i.fields.wf

/-- One row of spec/opcode_table.json: the words `w` with `w &&& mask = value` are the command. -/
structure OpcodeRow where
  mnemonic : String
  value    : Word
  mask     : Word
  deriving DecidableEq, Repr

/-- The word is one the row stands for. -/
def OpcodeRow.covers (r : OpcodeRow) (w : Word) : Bool := w &&& r.mask = r.value

/-- spec/opcode_table.json, row by row (R73). -/
def opcodeTable : List OpcodeRow :=
  [ ⟨"BUS.READ",     0x00000000, 0xFF0000FF⟩, ⟨"BUS.PEEK",    0x01000000, 0xFF0000FF⟩,
    ⟨"BUS.WRITE",    0x02000000, 0xFF000000⟩, ⟨"MAP.READPRG", 0x10000000, 0xFF0000FF⟩,
    ⟨"MAP.PEEKPRG",  0x11000000, 0xFF0000FF⟩, ⟨"MAP.WRITEPRG", 0x12000000, 0xFF000000⟩,
    ⟨"MAP.READCHR",  0x13000000, 0xFF0000FF⟩, ⟨"MAP.PEEKCHR", 0x14000000, 0xFF0000FF⟩,
    ⟨"MAP.WRITECHR", 0x15000000, 0xFF000000⟩, ⟨"VEC.RESOLVE", 0x20000000, 0xFFFFFFF0⟩ ] ++
  [ ⟨"VID.STEP",     0x30000000, 0xFFFFFFFF⟩, ⟨"VID.TAKE",    0x31000000, 0xFFFFFFFF⟩,
    ⟨"VID.RDDOT",    0x32000000, 0xFFFFFFFF⟩, ⟨"VID.RDLINE",  0x33000000, 0xFFFFFFFF⟩,
    ⟨"VID.PEEKFR",   0x34000000, 0xFFFFFFFF⟩, ⟨"CART.LOAD",   0x40000000, 0xFFFFFFFF⟩,
    ⟨"CART.UNLOAD",  0x41000000, 0xFFFFFFFF⟩, ⟨"CART.INFO",   0x42000000, 0xFFFFFFFC⟩,
    ⟨"SYS.FAULTS",   0x50000000, 0xFFFFFFFF⟩ ]

/-- The mnemonic of a command, as the opcode table spells it. -/
def Instr.mnemonic : Instr → String
  | .busRead _ => "BUS.READ"
  | .busPeek _ => "BUS.PEEK"
  | .busWrite _ _ => "BUS.WRITE"
  | .mapReadPrg _ => "MAP.READPRG"
  | .mapPeekPrg _ => "MAP.PEEKPRG"
  | .mapWritePrg _ _ => "MAP.WRITEPRG"
  | .mapReadChr _ => "MAP.READCHR"
  | .mapPeekChr _ => "MAP.PEEKCHR"
  | .mapWriteChr _ _ => "MAP.WRITECHR"
  | .vecResolve _ => "VEC.RESOLVE"
  | .vidStep => "VID.STEP"
  | .vidTake => "VID.TAKE"
  | .vidRddot => "VID.RDDOT"
  | .vidRdline => "VID.RDLINE"
  | .vidPeekfr => "VID.PEEKFR"
  | .cartLoad => "CART.LOAD"
  | .cartUnload => "CART.UNLOAD"
  | .cartInfo _ => "CART.INFO"
  | .sysFaults => "SYS.FAULTS"

/-- The instruction the decoder reads from table bits: a command is one 32-bit word (R71), and bits above `nbits` are
zero, so more than 32 bits are no command. -/
def decodeTableWord (nbits w : Nat) : Option Instr :=
  if nbits ≤ 32 then
    match decode (BitVec.ofNat 32 (w % 2 ^ nbits)) with
    | .ok i => some i
    | .error _ => none
  else none

end Sys2Proof
end

