-- ==== Sys2Proof/Machine/State.lean ====
section
/-! DEFINITION. The machine's state as plain data: the block's own state (RAM, CART, VID, FAULTS; 10_state.md R20), the
parameters of the run, the ports (30_encoding.md R70) and the queue of commands waiting at the input ports. -/

namespace Sys2Proof.Machine

/-- The parsed cartridge header (10_state.md R25). -/
structure Header where
  prgBankCount  : Byte
  chrBankCount  : Byte
  mapperId      : Byte
  hasTrainer    : Bool
  mirroringMode : Bool
  deriving DecidableEq, Repr

/-- A loaded cartridge (R24, R26): header, whole image, mapper kind, and the mapper's two bank starts, which are content
indices and so natural numbers (00_scope.md R19). -/
structure Cart where
  hdr       : Header
  content   : List Byte
  kind      : Config.MapperKind
  lowStart  : Nat
  highStart : Nat
  deriving DecidableEq, Repr

/-- The video timing state (10_state.md R29): `dot` 9 bits unsigned, `scanline` 10 bits two's complement. -/
structure Vid where
  dot        : BitVec 9
  scanline   : BitVec 10
  frameReady : Bool
  deriving DecidableEq, Repr

/-- The status of a response (30_encoding.md R76). Codes 9–15 are reserved and never produced, so they have no name. -/
inductive Status where
  | ok
  | malformedHeader
  | unsupportedMapper
  | addressDecodeViolation
  | noInterruptPending
  | chrNotSupported
  | contentOutOfRange
  | noCartridge
  | illegalCommand
  deriving DecidableEq, Repr

/-- The response of one command (R75): `rsp_status` and `rsp_data`. -/
structure Response where
  status : Status
  data   : BitVec 16
  deriving DecidableEq, Repr

/-- Which check of PARSE failed (41_cartridge.md R101, R102). -/
inductive HeaderFlaw where
  | wrongLength
  | wrongMagic
  deriving DecidableEq, Repr

/-- What `raise` raises (60_exceptions.md R190–R199), with what its recorded value is made of (30_encoding.md R76). -/
inductive BlockError where
  | malformedHeader (why : HeaderFlaw)
  | unsupportedMapper (id : Byte)
  /-- Raised by no command (20_memory.md R43). -/
  | addressDecodeViolation
  | noInterruptPending
  | chrNotSupported (a : Addr)
  | contentOutOfRange (a : Addr)
  | noCartridge
  | illegalCommand (hi : BitVec 16)
  deriving DecidableEq, Repr

/-- A device port's request of one command (30_encoding.md R70, R82); the index is 3 bits at the PPU port and 5 bits at
the APU/IO port. `idle` is op NONE, where the index and the write data have no meaning and no value. -/
inductive PortRequest (w : Nat) where
  | idle
  | read (i : BitVec w)
  | peek (i : BitVec w)
  | write (i : BitVec w) (v : Byte)
  deriving DecidableEq, Repr

/-- The input ports of one step (R70): the command word, the cartridge image, and the bytes the two device ports answer
with in that step. Device answers are draws of an external agent (60_exceptions.md R205), so they are input, not state. -/
structure Input where
  cmd        : Word
  img        : List Byte
  ppuRdata   : Byte
  apuioRdata : Byte
  deriving DecidableEq, Repr

/-- The internal RAM (10_state.md R23) as the list of the cells written since power-on, in canonical form
(`Memory.wf`): RAM indices strictly rising, all below 0x800. An unlisted index holds no written byte; what it reads as
is RAM_INIT (20_memory.md R64; log entry 3). -/
abbrev Memory := List Host.Cell

/-- The machine. -/
structure State where
  /-- RAM (R23). -/
  ram      : Memory
  /-- CART: EMPTY or LOADED (R24). -/
  cart     : Option Cart
  /-- VID (R29). -/
  vid      : Vid
  /-- FAULTS, 16 bits, sticky (R31). -/
  faults   : BitVec 16
  /-- The parameters of the run (00_scope.md R10); no step changes them (70_reset_and_hazards.md R222). -/
  params   : Config.Params
  /-- The input ports in the step that runs, or the last one that ran (30_encoding.md R70). -/
  ports    : Input
  /-- MODEL's own: the inputs of the steps to come, oldest first (20_memory.md R64's one total order). -/
  inputs   : List Input
  /-- The output ports `rsp_status` and `rsp_data` (R70); none before the first response. -/
  rsp      : Option Response
  /-- The output ports `ppu_op`, `ppu_idx`, `ppu_wdata` of the last step (R70). -/
  ppuReq   : PortRequest 3
  /-- The output ports `apuio_op`, `apuio_idx`, `apuio_wdata` of the last step (R70). -/
  apuioReq : PortRequest 5
  deriving DecidableEq, Repr

/-- Reasons a step stops the machine. There is one name, and no step answers with it. -/
inductive Fault where
  /-- AddressDecodeViolation as a stop. Nobody raises it: the address decode is total (20_memory.md R43, R194), and
  R43 lets a model keep this arm. Safe. -/
  | addressDecodeViolation
  deriving DecidableEq, Repr

/-- Reasons a step has no answer. -/
inductive Refusal where
  /-- An instruction without a meaning; raised by `exec` only. No arm raises it in this model. Safe. -/
  | notModelled (mnemonic : String)
  /-- Raised by `step` when no command waits at the port `cmd`: the block's only transitions are its commands and
  power-on (46_system.md R180, 60_exceptions.md R211), so there is no step to take. Safe (log entry 7). -/
  | noCommand
  deriving DecidableEq, Repr

/-- The machine after power-on (70_reset_and_hazards.md R220, R221): nothing written in RAM, CART EMPTY, VID (0, -1, 0),
FAULTS 0, the default parameters, no command waiting, no response yet, no device request. The values on the input
ports are the model's (log entry 6). -/
def State.reset : State where
  ram      := []
  cart     := none
  vid      := { dot := 0, scanline := -1, frameReady := false }
  faults   := 0x0000
  params   := Config.defaults
  ports    := { cmd := 0, img := [], ppuRdata := 0, apuioRdata := 0 }
  inputs   := []
  rsp      := none
  ppuReq   := .idle
  apuioReq := .idle

end Sys2Proof.Machine
end

