-- ==== Sys2Proof/Machine/Operands.lean ====
section
/-! DEFINITION. How operands are taken apart and results placed in `rsp_data` (30_encoding.md R75, R80, R81), and the
numeric codes of the ports. The block has one operand form for each field: A as it is, D as it is, the mask, the index. -/

namespace Sys2Proof.Machine

/-- A byte result (R81). -/
def zext16 (b : Byte) : BitVec 16 := b.setWidth 16

/-- The dot counter as a result (R81). -/
def dotResult (dot : BitVec 9) : BitVec 16 := dot.setWidth 16

/-- The scanline counter as a result, sign-extended, so that -1 reads 0xFFFF (R81). -/
def lineResult (scanline : BitVec 10) : BitVec 16 := scanline.signExtend 16

/-- One bit as a result (R81). -/
def bitResult (b : Bool) : BitVec 16 := if b then 1 else 0

/-- The bits of a pending set (R77). -/
def PendingSet.reset (m : PendingSet) : Bool := m.getLsbD 0
/-- NMI is pending (R77). -/
def PendingSet.nmi (m : PendingSet) : Bool := m.getLsbD 1
/-- IRQ is pending (R77). -/
def PendingSet.irq (m : PendingSet) : Bool := m.getLsbD 2
/-- BRK is pending (R77). -/
def PendingSet.brk (m : PendingSet) : Bool := m.getLsbD 3

/-- The 4-bit code of `rsp_status` (R76). -/
def Status.code : Status → BitVec 4
  | .ok => 0
  | .malformedHeader => 1
  | .unsupportedMapper => 2
  | .addressDecodeViolation => 3
  | .noInterruptPending => 4
  | .chrNotSupported => 5
  | .contentOutOfRange => 6
  | .noCartridge => 7
  | .illegalCommand => 8

/-- The status an error ends its command with (R76). -/
def BlockError.status : BlockError → Status
  | .malformedHeader _ => .malformedHeader
  | .unsupportedMapper _ => .unsupportedMapper
  | .addressDecodeViolation => .addressDecodeViolation
  | .noInterruptPending => .noInterruptPending
  | .chrNotSupported _ => .chrNotSupported
  | .contentOutOfRange _ => .contentOutOfRange
  | .noCartridge => .noCartridge
  | .illegalCommand _ => .illegalCommand

/-- The recorded value of an error, its `rsp_data` (R76). -/
def BlockError.value : BlockError → BitVec 16
  | .malformedHeader .wrongLength => 0
  | .malformedHeader .wrongMagic => 1
  | .unsupportedMapper id => zext16 id
  | .addressDecodeViolation => 0
  | .noInterruptPending => 0
  | .chrNotSupported a => a
  | .contentOutOfRange a => a
  | .noCartridge => 0
  | .illegalCommand hi => hi

/-- The code of a device port's op (R70): NONE 0, READ 1, PEEK 2, WRITE 3. -/
def PortRequest.op {w : Nat} : PortRequest w → BitVec 2
  | .idle => 0
  | .read _ => 1
  | .peek _ => 2
  | .write _ _ => 3

end Sys2Proof.Machine
end

