-- ==== Sys2Proof/Machine/Flags.lean ====
section
/-! DEFINITION. The block's flags: the sticky fault log FAULTS (10_state.md R31) and the one status flag `frameReady`
(R30). -/

namespace Sys2Proof.Machine

/-- The statuses a contract violation ends with, codes 3–8; only these are logged (R31, 30_encoding.md R76). -/
def Status.logged : Status → Bool
  | .ok => false
  | .malformedHeader => false
  | .unsupportedMapper => false
  | .addressDecodeViolation => true
  | .noInterruptPending => true
  | .chrNotSupported => true
  | .contentOutOfRange => true
  | .noCartridge => true
  | .illegalCommand => true

/-- The FAULTS bit of a status: bit `code` where it is logged, no bit otherwise (R31). -/
def Status.faultBit (st : Status) : BitVec 16 :=
  if st.logged then 1#16 <<< st.code.toNat else 0

/-- Logging a status sets its bit and clears none (R31). -/
def logFault (faults : BitVec 16) (st : Status) : BitVec 16 := faults ||| st.faultBit

/-- The implemented bits of FAULTS: 3–8; the others are hardwired 0 (R31, R32). -/
def faultsImplemented : BitVec 16 := 0x01F8

/-- What FAULTS reads as: the hardwired bits read 0 whatever stands there (R31). -/
def State.readFaults (s : State) : BitVec 16 := s.faults &&& faultsImplemented

/-- The frame wrap sets `frameReady`; a second wrap leaves it set (R30, 45_video.md R162). -/
def Vid.setFrameReady (v : Vid) : Vid := { v with frameReady := true }

/-- VID.TAKE clears `frameReady` (R30, 45_video.md R163). -/
def Vid.clearFrameReady (v : Vid) : Vid := { v with frameReady := false }

end Sys2Proof.Machine
end

