-- ==== Sys2Proof/Machine/Ops.lean ====
section
/-! DEFINITION. The operations every meaning is written over: RAM, the normal end of a command, and ending a command
with an error (60_exceptions.md R193). -/

namespace Sys2Proof.Machine

/-- The byte written at a RAM index since power-on, if any. -/
def Memory.written? : Memory → Nat → Option Byte
  | [], _ => none
  | (k, v) :: m, i => if k = i then some v else Memory.written? m i

/-- Put a byte at an index, keeping the indices strictly rising. -/
def Memory.put : Memory → Nat → Byte → Memory
  | [], i, b => [(i, b)]
  | (k, v) :: m, i, b =>
    if i < k then (i, b) :: (k, v) :: m
    else if i = k then (i, b) :: m
    else (k, v) :: Memory.put m i b

/-- `RAM[i]`: the last byte written there, or RAM_INIT if there is none (20_memory.md R64). -/
def Memory.read (m : Memory) (i : BitVec 11) : Byte :=
  (Memory.written? m i.toNat).getD (Config.ramInit i)

/-- `RAM[i] <- v` (20_memory.md R44). -/
def Memory.write (m : Memory) (i : BitVec 11) (v : Byte) : Memory :=
  Memory.put m i.toNat v

/-- Every index of the list is at least `lo`, below 0x800, and the indices rise strictly. -/
def Memory.risingFrom : Nat → Memory → Bool
  | _, [] => true
  | lo, (k, _) :: m => lo ≤ k && k < 0x800 && Memory.risingFrom (k + 1) m

/-- The canonical form of RAM: indices strictly rising and below 0x800 (10_state.md R23). What an unlisted index holds is
no written byte, so no entry can equal it. -/
def Memory.wf (m : Memory) : Bool := Memory.risingFrom 0 m

/-- `return (OK, data)` (00_scope.md R13, 30_encoding.md R75). -/
def State.respond (s : State) (data : BitVec 16) : State :=
  { s with rsp := some { status := .ok, data := data } }

/-- `raise E(info)`: TAKING AN ERROR, the block's one kind of exception (60_exceptions.md R193): the response is the
error's code and recorded value, its FAULTS bit is set if it is logged, and nothing else changes. There is no saved
state, no handler and no vector (R203), and there is no return operation (R204): the block goes on with the next
command. -/
def State.raise (s : State) (e : BlockError) : State :=
  { s with
    rsp := some { status := e.status, data := e.value }
    faults := logFault s.faults e.status }

/-- `require CART = LOADED(c) else raise NoCartridge(0)`, before any other check of the command (46_system.md R181). -/
def State.withCart (s : State) (k : Cart → State) : State :=
  match s.cart with
  | none => s.raise .noCartridge
  | some c => k c

/-- End a reading command: `return (OK, zext16(byte))` in the state the access left, or the error in the state before
it (R193). -/
def State.finishRead (s : State) (r : Except BlockError (Byte × State)) : State :=
  match r with
  | .error e => s.raise e
  | .ok (v, t) => t.respond (zext16 v)

end Sys2Proof.Machine
end

