-- ==== Sys2Proof/Machine/Header.lean ====
section
/-! DEFINITION. The cartridge image format (30_encoding.md R85–R90) and the header parse (41_cartridge.md R100–R103). -/

namespace Sys2Proof.Machine

/-- HEADER_SIZE (00_scope.md R10). -/
def headerSize : Nat := 16

/-- TRAINER_SIZE (R10). -/
def trainerSize : Nat := 512

/-- PRG_BANK_SIZE (R10, 42_mapper.md R124). -/
def prgBankSize : Nat := 0x4000

/-- The magic marker as the bytes 0–3 of an image. -/
def magicBytes (g : Config.Magic) : List Byte := [g.b0, g.b1, g.b2, g.b3]

/-- The mapper id of header bytes 6 and 7 (30_encoding.md R86). -/
def mapperIdOf (b6 b7 : Byte) : Byte := (b7 &&& 0xF0#8) ||| (b6 >>> 4)

/-- The header fields of sixteen bytes whose length and magic have been checked (41_cartridge.md R103, 30_encoding.md
R85). -/
def headerOf (b : List Byte) : Header where
  prgBankCount  := b.getD 4 0
  chrBankCount  := b.getD 5 0
  mirroringMode := (b.getD 6 0).getLsbD 0
  hasTrainer    := (b.getD 6 0).getLsbD 2
  mapperId      := mapperIdOf (b.getD 6 0) (b.getD 7 0)

/-- PARSE (41_cartridge.md R100): the length check, then the magic check, then the fields. -/
def parseHeader (magic : Config.Magic) (b : List Byte) : Except BlockError Header :=
  if b.length ≠ headerSize then .error (.malformedHeader .wrongLength)
  else if b.take 4 ≠ magicBytes magic then .error (.malformedHeader .wrongMagic)
  else .ok (headerOf b)

/-- The bytes the trainer takes, T of 30_encoding.md R88. -/
def Header.trainerBytes (h : Header) : Nat := if h.hasTrainer then trainerSize else 0

/-- Where PRG bank `k` begins in the content (30_encoding.md R88). -/
def Header.prgBankStart (h : Header) (k : Nat) : Nat := headerSize + h.trainerBytes + k * prgBankSize

/-- Where CHR bank `j` begins in the content (30_encoding.md R88). No command reads it. -/
def Header.chrBankStart (h : Header) (chrBankSize j : Nat) : Nat :=
  h.prgBankStart h.prgBankCount.toNat + j * chrBankSize

end Sys2Proof.Machine
end

