-- ==== Sys2Proof/Machine/Mapper.lean ====
section
/-! DEFINITION. The mapper abstraction, its registry, and the reference mapper FixedBank (42_mapper.md R120–R127, R134,
R135). A further mapper is a further `MapperKind` with one more arm in each `Mapper` operation; nothing else changes. -/

namespace Sys2Proof.Machine

/-- The kind registered for a mapper id, or none (R121). -/
def registryLookup (r : Config.Registry) (id : Byte) : Option Config.MapperKind := (r[id.toNat]?).join

/-- A registry table with entry `n` set, lengthened as far as needed. -/
def registrySet : Config.Registry → Nat → Config.MapperKind → Config.Registry
  | [], 0, k => [some k]
  | [], n + 1, k => none :: registrySet [] n k
  | _ :: r, 0, k => some k :: r
  | x :: r, n + 1, k => x :: registrySet r n k

/-- `register(mapperId, constructor)`, an act of configuration before power-on: an id that is registered already is
refused (R121). -/
def register (r : Config.Registry) (id : Byte) (k : Config.MapperKind) : Option Config.Registry :=
  match registryLookup r id with
  | some _ => none
  | none => some (registrySet r id.toNat k)

/-- The FixedBank constructor (R123). It checks no length. -/
def fixedBankInit (hdr : Header) (content : List Byte) : Cart :=
  let lowStart := headerSize + (if hdr.hasTrainer then trainerSize else 0)
  { hdr := hdr
    content := content
    kind := .fixedBank
    lowStart := lowStart
    highStart := if hdr.prgBankCount.toNat ≥ 2 then lowStart + prgBankSize else lowStart }

/-- CREATE (R122). -/
def createCart (r : Config.Registry) (id : Byte) (hdr : Header) (content : List Byte) : Except BlockError Cart :=
  match registryLookup r id with
  | none => .error (.unsupportedMapper id)
  | some .fixedBank => .ok (fixedBankInit hdr content)

/-- The content index FixedBank's selected bank starts at: the high bank where address bit 14 is 1 (R125). -/
def fixedBankStart (c : Cart) (a : Addr) : Nat := if a.getLsbD 14 then c.highStart else c.lowStart

/-- The end of the PRG area the header declares (R125). -/
def Cart.prgEnd (c : Cart) : Nat := c.lowStart + c.hdr.prgBankCount.toNat * prgBankSize

/-- The selected bank lies wholly inside the declared PRG area and the content (R125). -/
def fixedBankInRange (c : Cart) (a : Addr) : Bool :=
  fixedBankStart c a + prgBankSize ≤ c.prgEnd && fixedBankStart c a + prgBankSize ≤ c.content.length

/-- PrgRead under FixedBank (R125). An address below 0x8000 reads open bus; above, the bound check comes before the
index, so the index is always inside the content. -/
def fixedBankReadPrg (c : Cart) (a : Addr) : Except BlockError Byte :=
  if a < 0x8000 then .ok (Config.openBus a)
  else if fixedBankInRange c a then .ok (c.content.getD (fixedBankStart c a + a.toNat % prgBankSize) 0)
  else .error (.contentOutOfRange a)

/-- PrgPeek under FixedBank is PrgRead (R126). -/
def fixedBankPeekPrg (c : Cart) (a : Addr) : Except BlockError Byte := fixedBankReadPrg c a

/-- PrgWrite under FixedBank has no effect and never faults (R127). -/
def fixedBankWritePrg (c : Cart) (_a : Addr) (_v : Byte) : Cart := c

/-- ChrRead under FixedBank always fails (R134). -/
def fixedBankReadChr (_c : Cart) (a : Addr) : Except BlockError Byte := .error (.chrNotSupported a)

/-- ChrPeek under FixedBank always fails (R134). -/
def fixedBankPeekChr (_c : Cart) (a : Addr) : Except BlockError Byte := .error (.chrNotSupported a)

/-- ChrWrite under FixedBank always fails (R134). -/
def fixedBankWriteChr (_c : Cart) (a : Addr) (_v : Byte) : Except BlockError Cart := .error (.chrNotSupported a)

/-- PrgRead of the loaded mapper (R120). -/
def Mapper.readPrg (c : Cart) (a : Addr) : Except BlockError Byte :=
  match c.kind with
  | .fixedBank => fixedBankReadPrg c a

/-- PrgPeek of the loaded mapper (R120). -/
def Mapper.peekPrg (c : Cart) (a : Addr) : Except BlockError Byte :=
  match c.kind with
  | .fixedBank => fixedBankPeekPrg c a

/-- PrgWrite of the loaded mapper (R120): it answers the cartridge as the write leaves it, where a kind with bank-select
state would change it (10_state.md R27). -/
def Mapper.writePrg (c : Cart) (a : Addr) (v : Byte) : Cart :=
  match c.kind with
  | .fixedBank => fixedBankWritePrg c a v

/-- ChrRead of the loaded mapper (R120). -/
def Mapper.readChr (c : Cart) (a : Addr) : Except BlockError Byte :=
  match c.kind with
  | .fixedBank => fixedBankReadChr c a

/-- ChrPeek of the loaded mapper (R120). -/
def Mapper.peekChr (c : Cart) (a : Addr) : Except BlockError Byte :=
  match c.kind with
  | .fixedBank => fixedBankPeekChr c a

/-- ChrWrite of the loaded mapper (R120). -/
def Mapper.writeChr (c : Cart) (a : Addr) (v : Byte) : Except BlockError Cart :=
  match c.kind with
  | .fixedBank => fixedBankWriteChr c a v

/-- What CART.LOAD makes of an image (41_cartridge.md R104): the header is the first min(16, len) bytes, the content the
whole image, and the mapper id the header's own. -/
def loadImage (p : Config.Params) (img : List Byte) : Except BlockError Cart :=
  match parseHeader p.headerMagic (img.take headerSize) with
  | .error e => .error e
  | .ok hdr => createCart p.registry hdr.mapperId hdr img

end Sys2Proof.Machine
end

