-- ==== Sys2Proof/Machine/AddressBus.lean ====
section
/-! DEFINITION. The CPU address decoder (20_memory.md R41–R48), the device ports (30_encoding.md R82, 60_exceptions.md
R205, R206) and the three bus primitives (20_memory.md R50–R52). -/

namespace Sys2Proof.Machine

/-- The five targets of the decode table (R41). -/
inductive Target where
  | ram
  | ppu
  | apuIo
  | openBus
  | cart
  deriving DecidableEq, Repr

/-- Decode (R42): the target of an address and the offset passed to it. -/
def busDecode (a : Addr) : Target × Addr :=
  if a ≤ 0x1FFF then (.ram, a &&& 0x07FF)
  else if a ≤ 0x3FFF then (.ppu, a &&& 0x0007)
  else if a ≤ 0x4017 then (.apuIo, a - 0x4000)
  else if a ≤ 0x401F then (.openBus, a - 0x4018)
  else (.cart, a)

/-- The RAM index of an offset: RAM_SIZE is 0x800, so 11 bits (R44). -/
def ramIndex (off : Addr) : BitVec 11 := off.setWidth 11

/-- The PPU register index of an offset, `ppu_idx`, 3 bits (R45). -/
def ppuIndex (off : Addr) : BitVec 3 := off.setWidth 3

/-- The APU/IO offset, `apuio_idx`, 5 bits (R46). -/
def apuIoIndex (off : Addr) : BitVec 5 := off.setWidth 5

/-- PpuRead (60_exceptions.md R205, R206). -/
def ppuRead (i : BitVec 3) (s : State) : Byte × State :=
  match s.params.devices with
  | .null => (s.params.nullReadValue, s)
  | .external => (s.ports.ppuRdata, { s with ppuReq := .read i })

/-- PpuPeek (R205, R206). -/
def ppuPeek (i : BitVec 3) (s : State) : Byte × State :=
  match s.params.devices with
  | .null => (s.params.nullReadValue, s)
  | .external => (s.ports.ppuRdata, { s with ppuReq := .peek i })

/-- PpuWrite (R205, R206). -/
def ppuWrite (i : BitVec 3) (v : Byte) (s : State) : State :=
  match s.params.devices with
  | .null => s
  | .external => { s with ppuReq := .write i v }

/-- ApuIoRead (R205, R206). -/
def apuIoRead (i : BitVec 5) (s : State) : Byte × State :=
  match s.params.devices with
  | .null => (s.params.nullReadValue, s)
  | .external => (s.ports.apuioRdata, { s with apuioReq := .read i })

/-- ApuIoPeek (R205, R206). -/
def apuIoPeek (i : BitVec 5) (s : State) : Byte × State :=
  match s.params.devices with
  | .null => (s.params.nullReadValue, s)
  | .external => (s.ports.apuioRdata, { s with apuioReq := .peek i })

/-- ApuIoWrite (R205, R206). -/
def apuIoWrite (i : BitVec 5) (v : Byte) (s : State) : State :=
  match s.params.devices with
  | .null => s
  | .external => { s with apuioReq := .write i v }

/-- A PRG byte as a bus result: the mapper's reads change no state (42_mapper.md R126). -/
def mapperResult (r : Except BlockError Byte) (s : State) : Except BlockError (Byte × State) :=
  match r with
  | .error e => .error e
  | .ok v => .ok (v, s)

/-- BusRead with cartridge `c` loaded (R50). -/
def busRead (c : Cart) (a : Addr) (s : State) : Except BlockError (Byte × State) :=
  match busDecode a with
  | (.ram, off) => .ok (Memory.read s.ram (ramIndex off), s)
  | (.ppu, off) => .ok (ppuRead (ppuIndex off) s)
  | (.apuIo, off) => .ok (apuIoRead (apuIoIndex off) s)
  | (.openBus, _) => .ok (Config.openBus a, s)
  | (.cart, _) => mapperResult (Mapper.readPrg c a) s

/-- BusPeek with cartridge `c` loaded (R51). -/
def busPeek (c : Cart) (a : Addr) (s : State) : Except BlockError (Byte × State) :=
  match busDecode a with
  | (.ram, off) => .ok (Memory.read s.ram (ramIndex off), s)
  | (.ppu, off) => .ok (ppuPeek (ppuIndex off) s)
  | (.apuIo, off) => .ok (apuIoPeek (apuIoIndex off) s)
  | (.openBus, _) => .ok (Config.openBus a, s)
  | (.cart, _) => mapperResult (Mapper.peekPrg c a) s

/-- BusWrite with cartridge `c` loaded (R52); a write to the open-bus region is ignored (R47). -/
def busWrite (c : Cart) (a : Addr) (v : Byte) (s : State) : State :=
  match busDecode a with
  | (.ram, off) => { s with ram := Memory.write s.ram (ramIndex off) v }
  | (.ppu, off) => ppuWrite (ppuIndex off) v s
  | (.apuIo, off) => apuIoWrite (apuIoIndex off) v s
  | (.openBus, _) => s
  | (.cart, _) => { s with cart := some (Mapper.writePrg c a v) }

end Sys2Proof.Machine
end

