-- ==== Sys2Proof/Machine/Bus.lean ====
section
/-! DEFINITION. The BUS family (43_bus.md): BUS.READ, BUS.PEEK, BUS.WRITE. -/

namespace Sys2Proof.Machine

/-- BUS.READ (R140). -/
def execBusRead (a : Addr) (s : State) : Host.Outcome State Fault Refusal :=
  .next (s.withCart fun c => s.finishRead (busRead c a s))

/-- BUS.PEEK (R141). -/
def execBusPeek (a : Addr) (s : State) : Host.Outcome State Fault Refusal :=
  .next (s.withCart fun c => s.finishRead (busPeek c a s))

/-- BUS.WRITE (R142). -/
def execBusWrite (a : Addr) (d : Byte) (s : State) : Host.Outcome State Fault Refusal :=
  .next (s.withCart fun c => (busWrite c a d s).respond 0)

end Sys2Proof.Machine
end

