-- ==== Sys2Proof/Machine/Cartridge.lean ====
section
/-! DEFINITION. The CART family (41_cartridge.md): CART.LOAD, CART.UNLOAD, CART.INFO. -/

namespace Sys2Proof.Machine

/-- CART.LOAD (R104), all or nothing (R105): the image is the one on the port `img`. -/
def execCartLoad (s : State) : Host.Outcome State Fault Refusal :=
  .next (match loadImage s.params s.ports.img with
    | .error e => s.raise e
    | .ok c => { s with cart := some c }.respond 0)

/-- CART.UNLOAD (R106). -/
def execCartUnload (s : State) : Host.Outcome State Fault Refusal :=
  .next ({ s with cart := none }.respond 0)

/-- The word CART.INFO 0 reads of a loaded header (R107): bit 2 mirroring, bit 1 trainer, bit 0 loaded. -/
def infoFlags (h : Header) : BitVec 16 :=
  (BitVec.ofBool h.mirroringMode ++ BitVec.ofBool h.hasTrainer ++ 1#1).setWidth 16

/-- The field CART.INFO reads of a loaded header (R107). -/
def infoWord (h : Header) : InfoField → BitVec 16
  | .flags => infoFlags h
  | .prgBankCount => zext16 h.prgBankCount
  | .chrBankCount => zext16 h.chrBankCount
  | .mapperId => zext16 h.mapperId

/-- CART.INFO (R107): index 0 answers 0 with no cartridge; 1–3 raise NoCartridge. -/
def execCartInfo (i : InfoField) (s : State) : Host.Outcome State Fault Refusal :=
  .next (match s.cart with
    | some c => s.respond (infoWord c.hdr i)
    | none => if i = .flags then s.respond 0 else s.raise .noCartridge)

end Sys2Proof.Machine
end

