-- ==== Sys2Proof/Machine/Map.lean ====
section
/-! DEFINITION. The MAP family (42_mapper.md R128–R133): the loaded mapper's six operations without the bus decode. -/

namespace Sys2Proof.Machine

/-- MAP.READPRG (R128). -/
def execMapReadPrg (a : Addr) (s : State) : Host.Outcome State Fault Refusal :=
  .next (s.withCart fun c => s.finishRead (mapperResult (Mapper.readPrg c a) s))

/-- MAP.PEEKPRG (R129). -/
def execMapPeekPrg (a : Addr) (s : State) : Host.Outcome State Fault Refusal :=
  .next (s.withCart fun c => s.finishRead (mapperResult (Mapper.peekPrg c a) s))

/-- MAP.WRITEPRG (R130). -/
def execMapWritePrg (a : Addr) (d : Byte) (s : State) : Host.Outcome State Fault Refusal :=
  .next (s.withCart fun c => { s with cart := some (Mapper.writePrg c a d) }.respond 0)

/-- MAP.READCHR (R131). -/
def execMapReadChr (a : Addr) (s : State) : Host.Outcome State Fault Refusal :=
  .next (s.withCart fun c => s.finishRead (mapperResult (Mapper.readChr c a) s))

/-- MAP.PEEKCHR (R132). -/
def execMapPeekChr (a : Addr) (s : State) : Host.Outcome State Fault Refusal :=
  .next (s.withCart fun c => s.finishRead (mapperResult (Mapper.peekChr c a) s))

/-- MAP.WRITECHR (R133). -/
def execMapWriteChr (a : Addr) (d : Byte) (s : State) : Host.Outcome State Fault Refusal :=
  .next (s.withCart fun c =>
    match Mapper.writeChr c a d with
    | .error e => s.raise e
    | .ok c' => { s with cart := some c' }.respond 0)

end Sys2Proof.Machine
end

