-- ==== Sys2Proof/Machine/Sys.lean ====
section
/-! DEFINITION. The SYS family (46_system.md): SYS.FAULTS, and what an illegal word does. -/

namespace Sys2Proof.Machine

/-- SYS.FAULTS (R182): reading clears nothing. -/
def execSysFaults (s : State) : Host.Outcome State Fault Refusal :=
  .next (s.respond s.readFaults)

/-- An illegal word (R183): IllegalCommand with the word's upper half, and nothing else. -/
def illegalWord (w : Word) (s : State) : Host.Outcome State Fault Refusal :=
  .next (s.raise (.illegalCommand (w.extractLsb' 16 16)))

end Sys2Proof.Machine
end

