-- ==== Sys2Proof/Machine/Vec.lean ====
section
/-! DEFINITION. The VEC family (44_vector.md): the interrupt-vector resolver. -/

namespace Sys2Proof.Machine

/-- The vector of a pending set (R150, R152): Reset, then NMI, then IRQ and BRK alike; the empty set fails. -/
def resolveVector (p : Config.Params) (m : PendingSet) : Except BlockError Addr :=
  if m = 0 then .error .noInterruptPending
  else if PendingSet.reset m then .ok p.vecReset
  else if PendingSet.nmi m then .ok p.vecNmi
  else .ok p.vecIrqBrk

/-- VEC.RESOLVE (R150). -/
def execVecResolve (m : PendingSet) (s : State) : Host.Outcome State Fault Refusal :=
  .next (match resolveVector s.params m with
    | .error e => s.raise e
    | .ok v => s.respond v)

end Sys2Proof.Machine
end

