-- ==== Sys2Proof/Machine/Vid.lean ====
section
/-! DEFINITION. The VID family (45_video.md): the dot and scanline counters and `frameReady`. -/

namespace Sys2Proof.Machine

/-- One dot (R161): `dot` up to 341, then `scanline` up to 261, then the frame wrap. -/
def Vid.step (v : Vid) : Vid :=
  if v.dot + 1 = 341 then
    if v.scanline + 1 = 261 then { v with dot := 0, scanline := -1 }.setFrameReady
    else { v with dot := 0, scanline := v.scanline + 1 }
  else { v with dot := v.dot + 1 }

/-- VID.STEP (R161). -/
def execVidStep (s : State) : Host.Outcome State Fault Refusal :=
  .next ({ s with vid := s.vid.step }.respond 0)

/-- VID.TAKE (R163): the response is the flag as it was. -/
def execVidTake (s : State) : Host.Outcome State Fault Refusal :=
  .next ({ s with vid := s.vid.clearFrameReady }.respond (bitResult s.vid.frameReady))

/-- VID.RDDOT (R164). -/
def execVidRddot (s : State) : Host.Outcome State Fault Refusal :=
  .next (s.respond (dotResult s.vid.dot))

/-- VID.RDLINE (R165). -/
def execVidRdline (s : State) : Host.Outcome State Fault Refusal :=
  .next (s.respond (lineResult s.vid.scanline))

/-- VID.PEEKFR (R166). -/
def execVidPeekfr (s : State) : Host.Outcome State Fault Refusal :=
  .next (s.respond (bitResult s.vid.frameReady))

end Sys2Proof.Machine
end

