-- ==== Sys2Proof/Machine/Dispatch.lean ====
section
/-! DEFINITION. The meaning of each command, one arm a constructor (46_system.md R180). -/

namespace Sys2Proof.Machine

def exec (i : Instr) (s : State) : Host.Outcome State Fault Refusal :=
  match i with
  | .busRead a => Sys2Proof.Machine.execBusRead a s
  | .busPeek a => Sys2Proof.Machine.execBusPeek a s
  | .busWrite a d => Sys2Proof.Machine.execBusWrite a d s
  | .mapReadPrg a => Sys2Proof.Machine.execMapReadPrg a s
  | .mapPeekPrg a => Sys2Proof.Machine.execMapPeekPrg a s
  | .mapWritePrg a d => Sys2Proof.Machine.execMapWritePrg a d s
  | .mapReadChr a => Sys2Proof.Machine.execMapReadChr a s
  | .mapPeekChr a => Sys2Proof.Machine.execMapPeekChr a s
  | .mapWriteChr a d => Sys2Proof.Machine.execMapWriteChr a d s
  | .vecResolve m => Sys2Proof.Machine.execVecResolve m s
  | .vidStep => Sys2Proof.Machine.execVidStep s
  | .vidTake => Sys2Proof.Machine.execVidTake s
  | .vidRddot => Sys2Proof.Machine.execVidRddot s
  | .vidRdline => Sys2Proof.Machine.execVidRdline s
  | .vidPeekfr => Sys2Proof.Machine.execVidPeekfr s
  | .cartLoad => Sys2Proof.Machine.execCartLoad s
  | .cartUnload => Sys2Proof.Machine.execCartUnload s
  | .cartInfo f => Sys2Proof.Machine.execCartInfo f s
  | .sysFaults => Sys2Proof.Machine.execSysFaults s

end Sys2Proof.Machine
end

