-- ==== Sys2Proof/Machine/Interface.lean ====
section
/-! DEFINITION. Power-on with any parameters (70_reset_and_hazards.md R220, R222), and what a step does at the input
ports before its command runs (30_encoding.md R70). -/

namespace Sys2Proof.Machine

/-- Power-on with the parameters of the run `p` (70_reset_and_hazards.md R220, R222); it is the block's only reset.
`State.reset` is power-on with the default parameters. -/
def powerOn (p : Config.Params) : State := { State.reset with params := p }

/-- Take the input of a step: it stands on the input ports, the rest of the queue waits, and no device request has been
made yet in this step (30_encoding.md R70, R82). -/
def State.accept (s : State) (inp : Input) (rest : List Input) : State :=
  { s with ports := inp, inputs := rest, ppuReq := .idle, apuioReq := .idle }

/-- The inputs of the steps to come with the next command word replaced; with none waiting, one input is made whose
image and device answers are those standing on the ports. -/
def withNextCommand (s : State) (w : Word) : List Input :=
  match s.inputs with
  | [] => [{ s.ports with cmd := w }]
  | inp :: rest => { inp with cmd := w } :: rest

end Sys2Proof.Machine
end

