-- ==== Sys2Proof/Machine/Step.lean ====
section
/-! DEFINITION. One step of the block (46_system.md R180): one command word, taken from the input ports. -/

namespace Sys2Proof.Machine

/-- One step: take the next input, decode its word (30_encoding.md R78), and run the command, or end with
IllegalCommand (R183). -/
def step (s : State) : Host.Outcome State Fault Refusal :=
  match s.inputs with
  | [] => .refused .noCommand
  | inp :: rest =>
    match decode inp.cmd with
    | .ok i => exec i (s.accept inp rest)
    | .error _ => illegalWord inp.cmd (s.accept inp rest)

/-- `s` with the word of a table row standing as the next command at the port `cmd`, so that the next step runs it. -/
def State.withFetchWord (s : State) (nbits w : Nat) : State :=
  { s with inputs := withNextCommand s (BitVec.ofNat 32 (w % 2 ^ nbits)) }

end Sys2Proof.Machine
end

