-- ==== Sys2Proof/Machine/Assembler.lean ====
section
/-! DEFINITION. The assembler (30_encoding.md R92–R97): one line of text to the commands it stands for. A line that
cannot be read is an assembly error, never a command (R97). The spellings the rules leave open are log entry 8. -/

namespace Sys2Proof.Machine

/-- Why a line does not assemble. -/
inductive AsmError where
  /-- No form of R92–R96 fits the line (R97). -/
  | unreadable
  /-- VEC.FETCH with the empty set (R96). -/
  | emptyFetch
  deriving DecidableEq, Repr

/-- A piece of a line: a run of letters, digits and dots, or one other character. -/
inductive Token where
  | word (cs : List Char)
  | sym (c : Char)
  deriving DecidableEq, Repr

/-- A character of a mnemonic, a source name or a number. -/
def isWordChar (c : Char) : Bool :=
  let n := c.toNat
  (48 ≤ n && n ≤ 57) || (65 ≤ n && n ≤ 90) || (97 ≤ n && n ≤ 102) || n = 46

/-- Space or tab. -/
def isBlank (c : Char) : Bool := c.toNat = 32 || c.toNat = 9

/-- A finished word, if it is not empty, put before the tokens after it. -/
def flushWord (acc : List Char) (toks : List Token) : List Token :=
  if acc.isEmpty then toks else .word acc.reverse :: toks

/-- The tokens of a line up to its comment (R92); `acc` is the word being read, backwards. -/
def tokens : List Char → List Char → List Token
  | acc, [] => flushWord acc []
  | acc, c :: cs =>
    if c = ';' then flushWord acc []
    else if isWordChar c then tokens (c :: acc) cs
    else if isBlank c then flushWord acc (tokens [] cs)
    else flushWord acc (.sym c :: tokens [] cs)

/-- The value of a hexadecimal digit. -/
def hexDigit (c : Char) : Option Nat :=
  let n := c.toNat
  if 48 ≤ n && n ≤ 57 then some (n - 48)
  else if 65 ≤ n && n ≤ 70 then some (n - 55)
  else if 97 ≤ n && n ≤ 102 then some (n - 87)
  else none

/-- The value of a decimal digit. -/
def decDigit (c : Char) : Option Nat :=
  let n := c.toNat
  if 48 ≤ n && n ≤ 57 then some (n - 48) else none

/-- The number a run of digits stands for, most significant digit first. -/
def digitsValue (base : Nat) (digit : Char → Option Nat) : Nat → List Char → Option Nat
  | acc, [] => some acc
  | acc, c :: cs =>
    match digit c with
    | some d => digitsValue base digit (acc * base + d) cs
    | none => none

/-- `$hhhh`, 1 to 4 hexadecimal digits, zero-extended (R92). -/
def addressOperand (cs : List Char) : Option Addr :=
  if cs.isEmpty || 4 < cs.length then none
  else (digitsValue 16 hexDigit 0 cs).map (BitVec.ofNat 16)

/-- `#$hh`, two hexadecimal digits (R92). -/
def dataOperand (cs : List Char) : Option Byte :=
  if cs.length = 2 then (digitsValue 16 hexDigit 0 cs).map (BitVec.ofNat 8) else none

/-- `#n` with n in 0–3 (R92). -/
def indexOperand (cs : List Char) : Option InfoField :=
  match cs with
  | [c] =>
    match decDigit c with
    | some n => if n ≤ 3 then some (.ofIndex (BitVec.ofNat 2 n)) else none
    | none => none
  | _ => none

/-- `#$m`, one hexadecimal digit: a raw mask (R93). -/
def maskOperand (cs : List Char) : Option PendingSet :=
  match cs with
  | [c] => (hexDigit c).map (BitVec.ofNat 4)
  | _ => none

/-- The mask of one source name (R93). -/
def sourceMask (cs : List Char) : Option PendingSet :=
  if cs = "RESET".toList then some 1
  else if cs = "NMI".toList then some 2
  else if cs = "IRQ".toList then some 4
  else if cs = "BRK".toList then some 8
  else none

/-- The rest of a set after its first name: `, name` any number of times and the closing brace, each name at most once
(R93); `m` is the mask so far. -/
def setRest : PendingSet → List Token → Option PendingSet
  | m, [.sym close] => if close.toNat = 125 then some m else none
  | m, .sym comma :: .word n :: ts =>
    if comma = ',' then
      match sourceMask n with
      | some b => if m &&& b = 0 then setRest (m ||| b) ts else none
      | none => none
    else none
  | _, _ => none

/-- A pending-set operand: a set in braces, which may be empty, or a raw mask `#$m` (R93). -/
def setOperand : List Token → Option PendingSet
  | [.sym hash, .sym dollar, .word cs] => if hash = '#' && dollar = '$' then maskOperand cs else none
  | [.sym opening, .sym close] => if opening.toNat = 123 && close.toNat = 125 then some 0 else none
  | .sym opening :: .word n :: ts =>
    if opening.toNat = 123 then
      match sourceMask n with
      | some b => setRest b ts
      | none => none
    else none
  | _ => none

/-- The commands with no operand (R92). -/
def plainCommand (mn : List Char) : Option Line :=
  if mn = "VID.STEP".toList then some (.command .vidStep)
  else if mn = "VID.TAKE".toList then some (.command .vidTake)
  else if mn = "VID.RDDOT".toList then some (.command .vidRddot)
  else if mn = "VID.RDLINE".toList then some (.command .vidRdline)
  else if mn = "VID.PEEKFR".toList then some (.command .vidPeekfr)
  else if mn = "CART.LOAD".toList then some (.command .cartLoad)
  else if mn = "CART.UNLOAD".toList then some (.command .cartUnload)
  else if mn = "SYS.FAULTS".toList then some (.command .sysFaults)
  else if mn = "VID.FRAME".toList then some .vidFrame
  else none

/-- The commands with an address operand only (R92). -/
def addressCommand (mn : List Char) (a : Addr) : Option Instr :=
  if mn = "BUS.READ".toList then some (.busRead a)
  else if mn = "BUS.PEEK".toList then some (.busPeek a)
  else if mn = "MAP.READPRG".toList then some (.mapReadPrg a)
  else if mn = "MAP.PEEKPRG".toList then some (.mapPeekPrg a)
  else if mn = "MAP.READCHR".toList then some (.mapReadChr a)
  else if mn = "MAP.PEEKCHR".toList then some (.mapPeekChr a)
  else none

/-- The commands with an address and a data operand (R92). -/
def writeCommand (mn : List Char) (a : Addr) (d : Byte) : Option Instr :=
  if mn = "BUS.WRITE".toList then some (.busWrite a d)
  else if mn = "MAP.WRITEPRG".toList then some (.mapWritePrg a d)
  else if mn = "MAP.WRITECHR".toList then some (.mapWriteChr a d)
  else none

/-- The lines with a pending set (R92, R96). -/
def setLine (mn : List Char) (m : PendingSet) : Option Line :=
  if mn = "VEC.RESOLVE".toList then some (.command (.vecResolve m))
  else if mn = "VEC.FETCH".toList then some (.vecFetch m)
  else none

/-- The operands after a mnemonic: nothing, `$a`, `$a, #$d`, `#n`, a decimal count, or a pending set (R92–R96). -/
def parseOperands (mn : List Char) : List Token → Option Line
  | [] => plainCommand mn
  | [.word n] =>
    if mn = "VID.STEPN".toList then (digitsValue 10 decDigit 0 n).map .vidStepN else none
  | [.sym x, .word n] =>
    if x = '$' then (addressOperand n).bind fun a => (addressCommand mn a).map .command
    else if x = '#' && mn = "CART.INFO".toList then (indexOperand n).map fun i => .command (.cartInfo i)
    else none
  | [.sym x, .word n, .sym comma, .sym hash, .sym dollar, .word d] =>
    if x = '$' && comma = ',' && hash = '#' && dollar = '$' then
      (addressOperand n).bind fun a => (dataOperand d).bind fun b => (writeCommand mn a b).map .command
    else (setOperand [.sym x, .word n, .sym comma, .sym hash, .sym dollar, .word d]).bind (setLine mn)
  | ts => (setOperand ts).bind (setLine mn)

/-- One line of text (R92): none for a line with nothing before its comment. -/
def parseLine (cs : List Char) : Except AsmError (Option Line) :=
  match tokens [] cs with
  | [] => .ok none
  | .word mn :: ts =>
    match parseOperands mn ts with
    | some l => .ok (some l)
    | none => .error .unreadable
  | .sym _ :: _ => .error .unreadable

/-- Dots in one frame: 341 × 262 (R95). -/
def frameDots : Nat := 341 * 262

/-- The commands a line stands for (R94–R96). -/
def expandLine (p : Config.Params) : Line → Except AsmError (List Instr)
  | .command i => .ok [i]
  | .vidStepN n => .ok (List.replicate n .vidStep)
  | .vidFrame => .ok (List.replicate frameDots .vidStep)
  | .vecFetch m =>
    match resolveVector p m with
    | .ok v => .ok [.vecResolve m, .busRead v, .busRead (v + 1)]
    | .error _ => .error .emptyFetch

/-- Assemble one line to its commands (R92–R97). -/
def assembleLine (p : Config.Params) (cs : List Char) : Except AsmError (List Instr) :=
  match parseLine cs with
  | .ok none => .ok []
  | .ok (some l) => expandLine p l
  | .error e => .error e

/-- The entry point of VEC.FETCH from its two read results, low byte first (R96, 20_memory.md R59). The block composes
no bytes; the agent that sent the commands does. -/
def entryPoint (lowByte highByte : Byte) : Addr := highByte ++ lowByte

end Sys2Proof.Machine
end

