-- ==== Sys2Proof/Safety.lean ====
section
/-! DEFINITION. The terms claims about the block use: the outcome classes of a step (46_system.md R184), the invariant
(10_state.md R37), consecutive commands, and what a sequence of commands last wrote to RAM (20_memory.md R64). -/

namespace Sys2Proof.Machine

/-- The three classes of 46_system.md R184. -/
inductive OutcomeClass where
  | success
  | ordinaryFailure
  | contractViolation
  deriving DecidableEq, Repr

/-- The class of a status (R184): 0, 1–2, 3–8. -/
def Status.outcomeClass : Status → OutcomeClass
  | .ok => .success
  | .malformedHeader => .ordinaryFailure
  | .unsupportedMapper => .ordinaryFailure
  | .addressDecodeViolation => .contractViolation
  | .noInterruptPending => .contractViolation
  | .chrNotSupported => .contractViolation
  | .contentOutOfRange => .contractViolation
  | .noCartridge => .contractViolation
  | .illegalCommand => .contractViolation

/-- The run so far broke no contract: the premise "FAULTS = 0 at the end" of R184. -/
def State.faultFree (s : State) : Bool := s.readFaults = 0

/-- The counters are in their legal ranges (45_video.md R160). -/
abbrev Vid.inRange (v : Vid) : Prop :=
  v.dot.toNat ≤ 340 ∧ -1 ≤ v.scanline.toInt ∧ v.scanline.toInt ≤ 260

/-- The bits of FAULTS that are hardwired 0 are 0 (10_state.md R31). -/
abbrev State.reservedFaultsClear (s : State) : Prop := s.faults &&& ~~~faultsImplemented = 0

/-- The loaded cartridge, if any, is exactly what CART.LOAD made of its own content, so header, content, kind and bank
starts are as they were at the load (10_state.md R37). -/
abbrev State.cartAsLoaded (s : State) : Prop :=
  ∀ c ∈ s.cart, loadImage s.params c.content = .ok c

/-- The block's invariant (10_state.md R37), with the canonical form of RAM beside it. -/
structure State.Inv (s : State) : Prop where
  ramCanonical   : Memory.wf s.ram = true
  vidInRange     : s.vid.inRange
  faultsReserved : s.reservedFaultsClear
  cartLoaded     : s.cartAsLoaded

/-- Commands one after another, each in the state the one before it left (20_memory.md R64), with the inputs standing
on the ports throughout. -/
def execAll : List Instr → State → Host.Outcome State Fault Refusal
  | [], s => .next s
  | i :: is, s =>
    match exec i s with
    | .next t => execAll is t
    | .fault r => .fault r
    | .refused r => .refused r

/-- The byte a command stores at RAM index `j` while a cartridge is loaded: BUS.WRITE to an address in 0x0000–0x1FFF
that names `j` (20_memory.md R44, R52). -/
def storesToRam (j : BitVec 11) : Instr → Option Byte
  | .busWrite a d => if a.toNat < 0x2000 && a.toNat % 0x800 = j.toNat then some d else none
  | _ => none

/-- The byte the last store to RAM index `j` in a sequence of commands stores (20_memory.md R64). -/
def lastStoreToRam (j : BitVec 11) : List Instr → Option Byte
  | [] => none
  | i :: is =>
    match lastStoreToRam j is with
    | some d => some d
    | none => storesToRam j i

/-- The command loads or unloads a cartridge. -/
def changesCart : Instr → Bool
  | .cartLoad => true
  | .cartUnload => true
  | _ => false

end Sys2Proof.Machine
end

