-- ==== Sys2Proof/Certificates/Slice0/Obligations.lean ====
section
/-! DEFINITION. The statements about the model, from the numbered rules of spec/. Where a rule is the spec's own
decision (92_eei_decisions.md) or its own inference, the docstring says so. -/

open Sys2Proof Sys2Proof.Machine

/-! Encoding -/

/-- 30_encoding.md R73, R78: every command is well formed and its word decodes to it again, with every operand at every
value of its width. (The encoding is the spec's own decision D2.) -/
def Obligations.DecodeOfEncodeReturnsEveryCommand : Prop :=
  ∀ i : Instr, i.wf = true ∧ decode (encode i) = .ok i

/-- 30_encoding.md R73: the word of every command as a number, from the column "encoding (hex)" of the opcode map.
(The encoding is the spec's own decision D2.) -/
def Obligations.EncodingsAreTheOpcodeMap : Prop :=
  ∀ (a : Addr) (d : Byte) (m : PendingSet) (f : InfoField),
    (encode (.busRead a)).toNat = 0x100 * a.toNat ∧
    (encode (.busPeek a)).toNat = 0x01000000 + 0x100 * a.toNat ∧
    (encode (.busWrite a d)).toNat = 0x02000000 + 0x100 * a.toNat + d.toNat ∧
    (encode (.mapReadPrg a)).toNat = 0x10000000 + 0x100 * a.toNat ∧
    (encode (.mapPeekPrg a)).toNat = 0x11000000 + 0x100 * a.toNat ∧
    (encode (.mapWritePrg a d)).toNat = 0x12000000 + 0x100 * a.toNat + d.toNat ∧
    (encode (.mapReadChr a)).toNat = 0x13000000 + 0x100 * a.toNat ∧
    (encode (.mapPeekChr a)).toNat = 0x14000000 + 0x100 * a.toNat ∧
    (encode (.mapWriteChr a d)).toNat = 0x15000000 + 0x100 * a.toNat + d.toNat ∧
    (encode (.vecResolve m)).toNat = 0x20000000 + m.toNat ∧
    (encode .vidStep).toNat = 0x30000000 ∧
    (encode .vidTake).toNat = 0x31000000 ∧
    (encode .vidRddot).toNat = 0x32000000 ∧
    (encode .vidRdline).toNat = 0x33000000 ∧
    (encode .vidPeekfr).toNat = 0x34000000 ∧
    (encode .cartLoad).toNat = 0x40000000 ∧
    (encode .cartUnload).toNat = 0x41000000 ∧
    (encode (.cartInfo f)).toNat = 0x42000000 + f.index.toNat ∧
    (encode .sysFaults).toNat = 0x50000000

/-- spec/opcode_table.json against the decoder: a word that decodes matches the row of its command's mnemonic, and a
word that matches a row decodes to a command of that row's mnemonic. So no word matches two rows. -/
def Obligations.DecoderAgreesWithTheOpcodeTable : Prop :=
  (∀ (w : Word) (i : Instr), decode w = .ok i → ∃ r ∈ opcodeTable, r.covers w = true ∧ r.mnemonic = i.mnemonic) ∧
  (∀ (w : Word), ∀ r ∈ opcodeTable, r.covers w = true → ∃ i, decode w = .ok i ∧ i.mnemonic = r.mnemonic)

/-- 30_encoding.md R79 with R74, on the word's number: a word is illegal exactly when its UNIT is 0x6–0xF, or its OP is
one its unit does not have, or a must-be-zero bit of the map of R73 is set; and every such word, taken by a step, ends
with IllegalCommand. (The spec's own decision D2.) -/
def Obligations.ReservedEncodingsAreExactlyTheIllegalWords : Prop :=
  ∀ (w : Word) (unit op a d : Nat),
    unit = w.toNat / 0x10000000 → op = w.toNat / 0x1000000 % 16 →
    a = w.toNat / 0x100 % 0x10000 → d = w.toNat % 0x100 →
    ((∃ flaw, decode w = .error flaw) ↔
      (6 ≤ unit ∨
       (unit = 0 ∧ 3 ≤ op) ∨ (unit = 1 ∧ 6 ≤ op) ∨ (unit = 2 ∧ 1 ≤ op) ∨
       (unit = 3 ∧ 5 ≤ op) ∨ (unit = 4 ∧ 3 ≤ op) ∨ (unit = 5 ∧ 1 ≤ op) ∨
       (unit = 0 ∧ op ≠ 2 ∧ d ≠ 0) ∨
       (unit = 1 ∧ op ≠ 2 ∧ op ≠ 5 ∧ d ≠ 0) ∨
       (unit = 2 ∧ (a ≠ 0 ∨ 16 ≤ d)) ∨
       (unit = 3 ∧ (a ≠ 0 ∨ d ≠ 0)) ∨
       (unit = 4 ∧ op ≠ 2 ∧ (a ≠ 0 ∨ d ≠ 0)) ∨
       (unit = 4 ∧ op = 2 ∧ (a ≠ 0 ∨ 4 ≤ d)) ∨
       (unit = 5 ∧ (a ≠ 0 ∨ d ≠ 0)))) ∧
    ∀ flaw, decode w = .error flaw → ∀ (s : State) (inp : Input) (rest : List Input),
      s.inputs = inp :: rest → inp.cmd = w →
      ∃ t, step s = .next t ∧ ∃ r, t.rsp = some r ∧ r.status = .illegalCommand

/-- A few words written out from 95_test_vectors.md decode to the commands it lists, and one of each class of illegal
word does not decode. A sanity statement. -/
def Obligations.KnownWordsDecode : Prop :=
  decode 0x00080000 = .ok (.busRead 0x0800) ∧
  decode 0x021FFF99 = .ok (.busWrite 0x1FFF 0x99) ∧
  decode 0x11FFFF00 = .ok (.mapPeekPrg 0xFFFF) ∧
  decode 0x150010FF = .ok (.mapWriteChr 0x0010 0xFF) ∧
  decode 0x2000000C = .ok (.vecResolve 0xC) ∧
  decode 0x31000000 = .ok .vidTake ∧
  decode 0x40000000 = .ok .cartLoad ∧
  decode 0x42000002 = .ok (.cartInfo .chrBankCount) ∧
  decode 0x50000000 = .ok .sysFaults ∧
  decode 0x60000000 = .error .reservedUnit ∧
  decode 0x21000000 = .error .reservedOp ∧
  decode 0x00800001 = .error .nonzeroField

/-! The step -/

/-- 46_system.md R180: a step takes the oldest input; where its word decodes to a command, the step is that command's
meaning in the state in which that input stands on the ports, the rest of the queue waits and no device request has
been made. R180 says only that a step executes one command word. The model's own, and no rule's: that the words come
from a queue, oldest first, though the block has none (10_state.md R36; DESIGN CHOICE, log entry 9); that both device
ports are idle at the start of the step (DEDUCED, log entry 12); that with no input waiting there is no step (DESIGN
CHOICE, log entry 7). -/
def Obligations.StepRunsTheDecodedCommand : Prop :=
  (∀ (s : State) (inp : Input) (rest : List Input) (i : Instr),
    s.inputs = inp :: rest → decode inp.cmd = .ok i →
    step s = exec i { s with ports := inp, inputs := rest, ppuReq := .idle, apuioReq := .idle }) ∧
  (∀ s : State, s.inputs = [] → step s = .refused .noCommand)

/-- 46_system.md R183: an illegal word performs nothing and makes no device request; it ends with IllegalCommand, the
recorded value `w[31:16]`, and FAULTS bit 8; the two worked words among them. (The spec's own decision D2.)
The model's own, and no rule's: that the rest of a queue is left waiting (DESIGN CHOICE, log entry 9), and that both
device ports are idle after the step, which is how it says that no request was made (DEDUCED, log entry 12). -/
def Obligations.IllegalWordEndsWithIllegalCommand : Prop :=
  (∀ (s : State) (inp : Input) (rest : List Input) (flaw : CommandFlaw),
    s.inputs = inp :: rest → decode inp.cmd = .error flaw →
    ∃ v : BitVec 16, v.toNat = inp.cmd.toNat / 0x10000 ∧
      step s = .next { s with
        ports := inp, inputs := rest, ppuReq := .idle, apuioReq := .idle
        rsp := some ⟨.illegalCommand, v⟩, faults := s.faults ||| 0x0100 }) ∧
  (∃ flaw, decode 0x60000000 = .error flaw) ∧ (∃ flaw, decode 0x00800001 = .error flaw)

/-- 46_system.md R180: no step blocks: whatever word and whatever image and device answers are taken, the step ends in
a next state with a response, never in a fault, and it has used up exactly that input. (The
queue it is taken from is the model's choice, log entry 9.) -/
def Obligations.EveryStepEndsWithAResponse : Prop :=
  ∀ (s : State) (inp : Input) (rest : List Input), s.inputs = inp :: rest →
    ∃ t r, step s = .next t ∧ t.rsp = some r ∧ t.inputs = rest ∧ t.ports = inp

/-! Reset -/

/-- 70_reset_and_hazards.md R220, R221 (the spec's own inferences and decisions D3, D14, D15, D17): whatever the
parameters, VID is (0, -1, 0), CART is EMPTY, FAULTS is 0, every RAM byte is RAM_INIT's, whatever that is, and the
parameters are as given; `State.reset` is power-on with the defaults. -/
def Obligations.PowerOnState : Prop :=
  (∀ p : Config.Params,
    (powerOn p).vid.dot.toNat = 0 ∧ (powerOn p).vid.scanline.toInt = -1 ∧ (powerOn p).vid.frameReady = false ∧
    (powerOn p).cart = none ∧ (powerOn p).faults = 0 ∧
    (∀ j, Memory.read (powerOn p).ram j = Config.ramInit j) ∧ (powerOn p).params = p) ∧
  State.reset = powerOn Config.defaults

/-- 10_state.md R37 (an inference the spec marks as its own): the power-on state meets the invariant, whatever the
parameters. -/
def Obligations.PowerOnStateMeetsTheInvariant : Prop := State.reset.Inv ∧ ∀ p : Config.Params, (powerOn p).Inv

/-! The address bus -/

/-- 20_memory.md R41, R42: the decode table, with the offsets as numbers. Every address falls in one of the five ranges
and in one only. (That the port registers get an index is the spec's own decision D13.) -/
def Obligations.AddressDecodeIsTheTable : Prop :=
  ∀ a : Addr,
    (a.toNat ≤ 0x1FFF → ∃ off, busDecode a = (.ram, off) ∧ off.toNat = a.toNat % 0x0800) ∧
    (0x2000 ≤ a.toNat ∧ a.toNat ≤ 0x3FFF → ∃ off, busDecode a = (.ppu, off) ∧ off.toNat = a.toNat % 8) ∧
    (0x4000 ≤ a.toNat ∧ a.toNat ≤ 0x4017 → ∃ off, busDecode a = (.apuIo, off) ∧ off.toNat = a.toNat - 0x4000) ∧
    (0x4018 ≤ a.toNat ∧ a.toNat ≤ 0x401F → ∃ off, busDecode a = (.openBus, off) ∧ off.toNat = a.toNat - 0x4018) ∧
    (0x4020 ≤ a.toNat → busDecode a = (.cart, a))

/-- 43_bus.md R140, 20_memory.md R50 (with the mapper's 42_mapper.md R125): what BUS.READ does at every address, with and
without a cartridge, its encoding, and that it changes nothing but what is named here. -/
def Obligations.BusReadResult : Prop :=
  ∀ (s : State) (a : Addr), (encode (.busRead a)).toNat = 0x100 * a.toNat ∧
    (s.cart = none → exec (.busRead a) s =
      .next { s with rsp := some ⟨.noCartridge, 0⟩, faults := s.faults ||| 0x0080 }) ∧
    ∀ c : Cart, s.cart = some c →
    (a.toNat ≤ 0x1FFF → ∃ j : BitVec 11, j.toNat = a.toNat % 0x800 ∧
      exec (.busRead a) s = .next { s with rsp := some ⟨.ok, (Memory.read s.ram j).setWidth 16⟩ }) ∧
    (0x2000 ≤ a.toNat ∧ a.toNat ≤ 0x3FFF → s.params.devices = .null →
      exec (.busRead a) s = .next { s with rsp := some ⟨.ok, s.params.nullReadValue.setWidth 16⟩ }) ∧
    (0x2000 ≤ a.toNat ∧ a.toNat ≤ 0x3FFF → s.params.devices = .external → ∃ i : BitVec 3, i.toNat = a.toNat % 8 ∧
      exec (.busRead a) s = .next { s with ppuReq := .read i, rsp := some ⟨.ok, s.ports.ppuRdata.setWidth 16⟩ }) ∧
    (0x4000 ≤ a.toNat ∧ a.toNat ≤ 0x4017 → s.params.devices = .null →
      exec (.busRead a) s = .next { s with rsp := some ⟨.ok, s.params.nullReadValue.setWidth 16⟩ }) ∧
    (0x4000 ≤ a.toNat ∧ a.toNat ≤ 0x4017 → s.params.devices = .external →
      ∃ i : BitVec 5, i.toNat = a.toNat - 0x4000 ∧
      exec (.busRead a) s = .next { s with apuioReq := .read i, rsp := some ⟨.ok, s.ports.apuioRdata.setWidth 16⟩ }) ∧
    (0x4018 ≤ a.toNat ∧ a.toNat ≤ 0x7FFF →
      exec (.busRead a) s = .next { s with rsp := some ⟨.ok, (Config.openBus a).setWidth 16⟩ }) ∧
    (∀ start : Nat, 0x8000 ≤ a.toNat → start = (if 0xC000 ≤ a.toNat then c.highStart else c.lowStart) →
      (start + 0x4000 ≤ c.lowStart + c.hdr.prgBankCount.toNat * 0x4000 ∧ start + 0x4000 ≤ c.content.length →
        ∃ b, c.content[start + a.toNat % 0x4000]? = some b ∧
          exec (.busRead a) s = .next { s with rsp := some ⟨.ok, b.setWidth 16⟩ }) ∧
      (start + 0x4000 > c.lowStart + c.hdr.prgBankCount.toNat * 0x4000 ∨ start + 0x4000 > c.content.length →
        exec (.busRead a) s =
          .next { s with rsp := some ⟨.contentOutOfRange, a⟩, faults := s.faults ||| 0x0040 }))

/-- 43_bus.md R141, 20_memory.md R51: what BUS.PEEK does at every address, with and without a cartridge, and its
encoding. A peek of a device port is a PEEK request; nothing else changes. -/
def Obligations.BusPeekResult : Prop :=
  ∀ (s : State) (a : Addr), (encode (.busPeek a)).toNat = 0x01000000 + 0x100 * a.toNat ∧
    (s.cart = none → exec (.busPeek a) s =
      .next { s with rsp := some ⟨.noCartridge, 0⟩, faults := s.faults ||| 0x0080 }) ∧
    ∀ c : Cart, s.cart = some c →
    (a.toNat ≤ 0x1FFF → ∃ j : BitVec 11, j.toNat = a.toNat % 0x800 ∧
      exec (.busPeek a) s = .next { s with rsp := some ⟨.ok, (Memory.read s.ram j).setWidth 16⟩ }) ∧
    (0x2000 ≤ a.toNat ∧ a.toNat ≤ 0x4017 → s.params.devices = .null →
      exec (.busPeek a) s = .next { s with rsp := some ⟨.ok, s.params.nullReadValue.setWidth 16⟩ }) ∧
    (0x2000 ≤ a.toNat ∧ a.toNat ≤ 0x3FFF → s.params.devices = .external → ∃ i : BitVec 3, i.toNat = a.toNat % 8 ∧
      exec (.busPeek a) s = .next { s with ppuReq := .peek i, rsp := some ⟨.ok, s.ports.ppuRdata.setWidth 16⟩ }) ∧
    (0x4000 ≤ a.toNat ∧ a.toNat ≤ 0x4017 → s.params.devices = .external →
      ∃ i : BitVec 5, i.toNat = a.toNat - 0x4000 ∧
      exec (.busPeek a) s = .next { s with apuioReq := .peek i, rsp := some ⟨.ok, s.ports.apuioRdata.setWidth 16⟩ }) ∧
    (0x4018 ≤ a.toNat ∧ a.toNat ≤ 0x7FFF →
      exec (.busPeek a) s = .next { s with rsp := some ⟨.ok, (Config.openBus a).setWidth 16⟩ }) ∧
    (∀ start : Nat, 0x8000 ≤ a.toNat → start = (if 0xC000 ≤ a.toNat then c.highStart else c.lowStart) →
      (start + 0x4000 ≤ c.lowStart + c.hdr.prgBankCount.toNat * 0x4000 ∧ start + 0x4000 ≤ c.content.length →
        ∃ b, c.content[start + a.toNat % 0x4000]? = some b ∧
          exec (.busPeek a) s = .next { s with rsp := some ⟨.ok, b.setWidth 16⟩ }) ∧
      (start + 0x4000 > c.lowStart + c.hdr.prgBankCount.toNat * 0x4000 ∨ start + 0x4000 > c.content.length →
        exec (.busPeek a) s =
          .next { s with rsp := some ⟨.contentOutOfRange, a⟩, faults := s.faults ||| 0x0040 }))

/-- 43_bus.md R142, 20_memory.md R52: what BUS.WRITE does at every address, with and without a cartridge, and its
encoding. With one, in 0x0000–0x1FFF it replaces one RAM byte, the one the address names modulo 0x800; elsewhere RAM
keeps every byte; it then never raises an error, and nothing changes but what is named here. -/
def Obligations.BusWriteResult : Prop :=
  ∀ (s : State) (a : Addr) (d : Byte),
    (encode (.busWrite a d)).toNat = 0x02000000 + 0x100 * a.toNat + d.toNat ∧
    (s.cart = none → exec (.busWrite a d) s =
      .next { s with rsp := some ⟨.noCartridge, 0⟩, faults := s.faults ||| 0x0080 }) ∧
    ∀ c : Cart, s.cart = some c →
    (a.toNat ≤ 0x1FFF → ∃ ram, exec (.busWrite a d) s = .next { s with ram := ram, rsp := some ⟨.ok, 0⟩ } ∧
      ∀ j : BitVec 11, Memory.read ram j = if j.toNat = a.toNat % 0x800 then d else Memory.read s.ram j) ∧
    (0x2000 ≤ a.toNat ∧ a.toNat ≤ 0x4017 → s.params.devices = .null →
      exec (.busWrite a d) s = .next { s with rsp := some ⟨.ok, 0⟩ }) ∧
    (0x2000 ≤ a.toNat ∧ a.toNat ≤ 0x3FFF → s.params.devices = .external → ∃ i : BitVec 3, i.toNat = a.toNat % 8 ∧
      exec (.busWrite a d) s = .next { s with ppuReq := .write i d, rsp := some ⟨.ok, 0⟩ }) ∧
    (0x4000 ≤ a.toNat ∧ a.toNat ≤ 0x4017 → s.params.devices = .external →
      ∃ i : BitVec 5, i.toNat = a.toNat - 0x4000 ∧
      exec (.busWrite a d) s = .next { s with apuioReq := .write i d, rsp := some ⟨.ok, 0⟩ }) ∧
    (0x4018 ≤ a.toNat → exec (.busWrite a d) s = .next { s with rsp := some ⟨.ok, 0⟩ })

/-- 20_memory.md R44 (an inference the spec marks as its own): two addresses below 0x2000 that agree modulo 0x800 name
one byte: they read and peek alike, and a write through one is what a read through the other then returns. -/
def Obligations.RamMirrorsNameOneByte : Prop :=
  ∀ (s : State) (c : Cart) (a b : Addr) (d : Byte), s.cart = some c →
    a.toNat < 0x2000 → b.toNat < 0x2000 → a.toNat % 0x800 = b.toNat % 0x800 →
    exec (.busRead a) s = exec (.busRead b) s ∧ exec (.busPeek a) s = exec (.busPeek b) s ∧
    ∃ t u, exec (.busWrite a d) s = .next t ∧ exec (.busRead b) t = .next u ∧
      u.rsp = some ⟨.ok, d.setWidth 16⟩

/-- 20_memory.md R53, 42_mapper.md R126: a peek answers what a read answers, fault included, and a read after the peek
still answers it; through the bus and through the mapper. For the device ports this is the device's obligation
(60_exceptions.md R205): the premise is that the device puts the same byte on its port for the peek and for the read,
which one state's `ports` expresses. -/
def Obligations.PeekAgreesWithRead : Prop :=
  ∀ (s : State) (a : Addr),
    (∃ t u v, exec (.busPeek a) s = .next t ∧ exec (.busRead a) s = .next u ∧ exec (.busRead a) t = .next v ∧
      t.rsp = u.rsp ∧ v.rsp = t.rsp) ∧
    (∃ t u v, exec (.mapPeekPrg a) s = .next t ∧ exec (.mapReadPrg a) s = .next u ∧
      exec (.mapReadPrg a) t = .next v ∧ t.rsp = u.rsp ∧ v.rsp = t.rsp)

/-- 46_system.md R181: with CART EMPTY the BUS and MAP commands and CART.INFO 1–3 end with NoCartridge(0), set FAULTS
bit 7 and change nothing else; no device request is made. (The spec's own decision D17.) -/
def Obligations.NoCartridgeCheckComesFirst : Prop :=
  ∀ (s : State) (a : Addr) (d : Byte) (f : InfoField), s.cart = none →
    ∀ i ∈ [Instr.busRead a, .busPeek a, .busWrite a d, .mapReadPrg a, .mapPeekPrg a, .mapWritePrg a d, .mapReadChr a,
        .mapPeekChr a, .mapWriteChr a d] ++ (if f = .flags then [] else [.cartInfo f]),
      exec i s = .next { s with rsp := some ⟨.noCartridge, 0⟩, faults := s.faults ||| 0x0080 }

/-! The mapper -/

/-- 42_mapper.md R125, R126, R128, R129: PRG reads and peeks through the mapper at every address, with and without a
cartridge, and their encodings. Below 0x8000 they read open bus, also below 0x4020. (The window, what
lies below it and the bound check are the spec's own decisions D8, D9 and D19.) -/
def Obligations.MapPrgReadAndPeekResult : Prop :=
  ∀ (s : State) (a : Addr),
    (encode (.mapReadPrg a)).toNat = 0x10000000 + 0x100 * a.toNat ∧
    (encode (.mapPeekPrg a)).toNat = 0x11000000 + 0x100 * a.toNat ∧
    ∀ i ∈ [Instr.mapReadPrg a, .mapPeekPrg a],
      (s.cart = none → exec i s =
        .next { s with rsp := some ⟨.noCartridge, 0⟩, faults := s.faults ||| 0x0080 }) ∧
      ∀ (c : Cart) (start : Nat), s.cart = some c →
      start = (if 0xC000 ≤ a.toNat then c.highStart else c.lowStart) →
      (a.toNat < 0x8000 → exec i s = .next { s with rsp := some ⟨.ok, (Config.openBus a).setWidth 16⟩ }) ∧
      (0x8000 ≤ a.toNat → start + 0x4000 ≤ c.lowStart + c.hdr.prgBankCount.toNat * 0x4000 →
        start + 0x4000 ≤ c.content.length →
        ∃ b, c.content[start + a.toNat % 0x4000]? = some b ∧
          exec i s = .next { s with rsp := some ⟨.ok, b.setWidth 16⟩ }) ∧
      (0x8000 ≤ a.toNat →
        start + 0x4000 > c.lowStart + c.hdr.prgBankCount.toNat * 0x4000 ∨ start + 0x4000 > c.content.length →
        exec i s = .next { s with rsp := some ⟨.contentOutOfRange, a⟩, faults := s.faults ||| 0x0040 })

/-- 42_mapper.md R127, R130: a PRG write under FixedBank has no effect for every address and byte and never faults,
whatever the content; without a cartridge it raises NoCartridge. -/
def Obligations.MapWritePrgHasNoEffect : Prop :=
  ∀ (s : State) (a : Addr) (d : Byte),
    (encode (.mapWritePrg a d)).toNat = 0x12000000 + 0x100 * a.toNat + d.toNat ∧
    (s.cart = none → exec (.mapWritePrg a d) s =
      .next { s with rsp := some ⟨.noCartridge, 0⟩, faults := s.faults ||| 0x0080 }) ∧
    ∀ c : Cart, s.cart = some c → exec (.mapWritePrg a d) s = .next { s with rsp := some ⟨.ok, 0⟩ }

/-- 42_mapper.md R134, R131–R133: with a cartridge loaded the three CHR commands end with ChrNotSupported(A) at every
address and header, FAULTS bit 5 set and nothing else changed; without one, with NoCartridge. This
failure is the whole effect the spec gives them. -/
def Obligations.ChrCommandsFailLoudly : Prop :=
  ∀ (s : State) (a : Addr) (d : Byte),
    (encode (.mapReadChr a)).toNat = 0x13000000 + 0x100 * a.toNat ∧
    (encode (.mapPeekChr a)).toNat = 0x14000000 + 0x100 * a.toNat ∧
    (encode (.mapWriteChr a d)).toNat = 0x15000000 + 0x100 * a.toNat + d.toNat ∧
    ∀ i ∈ [Instr.mapReadChr a, .mapPeekChr a, .mapWriteChr a d],
      (s.cart = none → exec i s =
        .next { s with rsp := some ⟨.noCartridge, 0⟩, faults := s.faults ||| 0x0080 }) ∧
      ∀ c : Cart, s.cart = some c →
        exec i s = .next { s with rsp := some ⟨.chrNotSupported, a⟩, faults := s.faults ||| 0x0020 }

/-- 42_mapper.md R123, R128: an image with one PRG bank, wholly present, is mirrored: A and A xor 0x4000 in
0x8000–0xFFFF read the same byte and neither faults. -/
def Obligations.OneBankImageIsMirrored : Prop :=
  ∀ (s : State) (img : List Byte) (c : Cart) (a : Addr),
    s.cart = some c → loadImage s.params img = .ok c → c.hdr.prgBankCount = 1 →
    16 + (if c.hdr.hasTrainer then 512 else 0) + 0x4000 ≤ img.length → 0x8000 ≤ a.toNat →
    ∃ b t, exec (.busRead a) s = .next t ∧ exec (.busRead (a ^^^ 0x4000)) s = .next t ∧ t.rsp = some ⟨.ok, b⟩

/-- 42_mapper.md R123, R125, 30_encoding.md R88: an image with two or more PRG banks, the first two wholly present, is
flat: address 0x8000 + k reads byte k of the PRG data, for every k below 0x8000. -/
def Obligations.TwoBankImageIsFlat : Prop :=
  ∀ (s : State) (img : List Byte) (c : Cart) (a : Addr) (k base : Nat),
    s.cart = some c → loadImage s.params img = .ok c → 2 ≤ c.hdr.prgBankCount.toNat →
    base = 16 + (if c.hdr.hasTrainer then 512 else 0) →
    base + 0x4000 + 0x4000 ≤ img.length → a.toNat = 0x8000 + k →
    ∃ b t, img[base + k]? = some b ∧ exec (.busRead a) s = .next t ∧ t.rsp = some ⟨.ok, b.setWidth 16⟩

/-- 42_mapper.md R124: only the first two PRG banks are ever read: two cartridges loaded from images of one length that
agree outside the trainer, the later PRG banks and the CHR area answer every PRG read alike. -/
def Obligations.OnlyTheFirstTwoBanksAreRead : Prop :=
  ∀ (p : Config.Params) (img img' : List Byte) (c c' : Cart) (base : Nat) (a : Addr),
    loadImage p img = .ok c → loadImage p img' = .ok c' → img.length = img'.length →
    (∀ k < 16, img[k]? = img'[k]?) → base = 16 + (if c.hdr.hasTrainer then 512 else 0) →
    (∀ k, base ≤ k → k < base + 0x8000 → img[k]? = img'[k]?) →
    Mapper.readPrg c a = Mapper.readPrg c' a ∧ Mapper.peekPrg c a = Mapper.peekPrg c' a

/-! The cartridge -/

/-- 41_cartridge.md R100–R103, 30_encoding.md R85, R86: the header parse, on the sixteen bytes as numbers. -/
def Obligations.HeaderParseFollowsTheLayout : Prop :=
  ∀ (g : Config.Magic) (b : List Byte),
    (b.length ≠ 16 → parseHeader g b = .error (.malformedHeader .wrongLength)) ∧
    (b.length = 16 → ∀ b0 b1 b2 b3 b4 b5 b6 b7, b.take 8 = [b0, b1, b2, b3, b4, b5, b6, b7] →
      (b0 ≠ g.b0 ∨ b1 ≠ g.b1 ∨ b2 ≠ g.b2 ∨ b3 ≠ g.b3 →
        parseHeader g b = .error (.malformedHeader .wrongMagic)) ∧
      (b0 = g.b0 ∧ b1 = g.b1 ∧ b2 = g.b2 ∧ b3 = g.b3 → ∃ h, parseHeader g b = .ok h ∧
        h.prgBankCount = b4 ∧ h.chrBankCount = b5 ∧
        (h.mirroringMode = true ↔ b6.toNat % 2 = 1) ∧ (h.hasTrainer = true ↔ b6.toNat / 4 % 2 = 1) ∧
        h.mapperId.toNat = b7.toNat / 16 * 16 + b6.toNat / 16))

/-- 30_encoding.md R87: bytes 8–15, byte 6 bits 1 and 3 and byte 7 bits 3:0 change neither the parsed header nor whether
the parse fails. (That the unnamed bits have no effect is the spec's own decision D36.) -/
def Obligations.UnnamedHeaderBitsAreIgnored : Prop :=
  ∀ (g : Config.Magic) (b b' : List Byte) (b6 b6' b7 b7' : Byte), b.length = 16 → b'.length = 16 →
    b.take 6 = b'.take 6 →
    b[6]? = some b6 → b'[6]? = some b6' → b6 &&& 0xF5 = b6' &&& 0xF5 →
    b[7]? = some b7 → b'[7]? = some b7' → b7 &&& 0xF0 = b7' &&& 0xF0 →
    parseHeader g b = parseHeader g b'

/-- 41_cartridge.md R104, R105, 42_mapper.md R122, R123: what CART.LOAD does with every image. A failure changes nothing
but the response; a success replaces the cartridge and nothing else. (The spec's own decisions D18, D24, D35.) -/
def Obligations.CartLoadResult : Prop :=
  ∀ (s : State) (img : List Byte), s.ports.img = img →
    (encode .cartLoad).toNat = 0x40000000 ∧
    (img.length < 16 → exec .cartLoad s = .next { s with rsp := some ⟨.malformedHeader, 0⟩ }) ∧
    (∀ b0 b1 b2 b3 b4 b5 b6 b7 : Byte, 16 ≤ img.length → img.take 8 = [b0, b1, b2, b3, b4, b5, b6, b7] →
      (b0 ≠ s.params.headerMagic.b0 ∨ b1 ≠ s.params.headerMagic.b1 ∨ b2 ≠ s.params.headerMagic.b2 ∨
          b3 ≠ s.params.headerMagic.b3 →
        exec .cartLoad s = .next { s with rsp := some ⟨.malformedHeader, 1⟩ }) ∧
      (∀ id : Byte, id.toNat = b7.toNat / 16 * 16 + b6.toNat / 16 →
        b0 = s.params.headerMagic.b0 → b1 = s.params.headerMagic.b1 → b2 = s.params.headerMagic.b2 →
        b3 = s.params.headerMagic.b3 →
        (registryLookup s.params.registry id = none →
          exec .cartLoad s = .next { s with rsp := some ⟨.unsupportedMapper, id.setWidth 16⟩ }) ∧
        (registryLookup s.params.registry id = some .fixedBank → ∃ c,
          exec .cartLoad s = .next { s with cart := some c, rsp := some ⟨.ok, 0⟩ } ∧
          c.content = img ∧ c.kind = .fixedBank ∧ c.hdr.mapperId = id ∧
          c.hdr.prgBankCount = b4 ∧ c.hdr.chrBankCount = b5 ∧
          (c.hdr.mirroringMode = true ↔ b6.toNat % 2 = 1) ∧ (c.hdr.hasTrainer = true ↔ b6.toNat / 4 % 2 = 1) ∧
          c.lowStart = 16 + (if c.hdr.hasTrainer then 512 else 0) ∧
          c.highStart = if 2 ≤ b4.toNat then c.lowStart + 0x4000 else c.lowStart)))

/-- 41_cartridge.md R106: CART.UNLOAD empties the slot, keeps everything else, and succeeds with an empty slot too; after
it BUS.READ (for one) raises NoCartridge. (The command is the spec's own decision D32.) -/
def Obligations.CartUnloadResult : Prop :=
  ∀ s : State, (encode .cartUnload).toNat = 0x41000000 ∧
    exec .cartUnload s = .next { s with cart := none, rsp := some ⟨.ok, 0⟩ } ∧
    ∀ a, ∃ t u, exec .cartUnload s = .next t ∧ exec (.busRead a) t = .next u ∧ u.rsp = some ⟨.noCartridge, 0⟩

/-- 41_cartridge.md R107: what CART.INFO reads, with and without a cartridge; it changes no state but FAULTS bit 7 where
it raises NoCartridge. (The index coding is the spec's own decision D31.) -/
def Obligations.CartInfoResult : Prop :=
  ∀ s : State, (∀ f : InfoField, (encode (.cartInfo f)).toNat = 0x42000000 + f.index.toNat) ∧
    (s.cart = none → exec (.cartInfo .flags) s = .next { s with rsp := some ⟨.ok, 0⟩ } ∧
      ∀ f, f.index.toNat ≠ 0 →
        exec (.cartInfo f) s = .next { s with rsp := some ⟨.noCartridge, 0⟩, faults := s.faults ||| 0x0080 }) ∧
    (∀ c, s.cart = some c → ∀ f, ∃ v : BitVec 16, exec (.cartInfo f) s = .next { s with rsp := some ⟨.ok, v⟩ } ∧
      (f.index.toNat = 0 → v.toNat = 1 + (if c.hdr.hasTrainer then 2 else 0) + (if c.hdr.mirroringMode then 4 else 0)) ∧
      (f.index.toNat = 1 → v.toNat = c.hdr.prgBankCount.toNat) ∧
      (f.index.toNat = 2 → v.toNat = c.hdr.chrBankCount.toNat) ∧
      (f.index.toNat = 3 → v.toNat = c.hdr.mapperId.toNat))

/-! The vector resolver -/

/-- 44_vector.md R150, R152, R153: the resolver's answer for every mask, its bits read as numbers; it needs no cartridge
and changes nothing, save FAULTS bit 4 on the empty mask. So passing Reset resets nothing (70_reset_and_hazards.md
R223). -/
def Obligations.VecResolveResult : Prop :=
  ∀ (s : State) (m : PendingSet), (encode (.vecResolve m)).toNat = 0x20000000 + m.toNat ∧
    (m.toNat = 0 → exec (.vecResolve m) s =
      .next { s with rsp := some ⟨.noInterruptPending, 0⟩, faults := s.faults ||| 0x0010 }) ∧
    (m.toNat % 2 = 1 → exec (.vecResolve m) s = .next { s with rsp := some ⟨.ok, s.params.vecReset⟩ }) ∧
    (m.toNat % 4 = 2 → exec (.vecResolve m) s = .next { s with rsp := some ⟨.ok, s.params.vecNmi⟩ }) ∧
    (m.toNat % 4 = 0 → m.toNat ≠ 0 →
      exec (.vecResolve m) s = .next { s with rsp := some ⟨.ok, s.params.vecIrqBrk⟩ })

/-- 44_vector.md R154 (an inference the spec marks as its own): the truth table at the default vectors, all sixteen
masks. A sanity statement. -/
def Obligations.VectorTruthTable : Prop :=
  (∀ m : PendingSet, m ∈ [1, 3, 5, 7, 9, 11, 13, 15] → resolveVector Config.defaults m = .ok 0xFFFC) ∧
  (∀ m : PendingSet, m ∈ [2, 6, 10, 14] → resolveVector Config.defaults m = .ok 0xFFFA) ∧
  (∀ m : PendingSet, m ∈ [4, 8, 12] → resolveVector Config.defaults m = .ok 0xFFFE) ∧
  resolveVector Config.defaults 0 = .error .noInterruptPending

/-! Video timing -/

/-- 45_video.md R161: one VID.STEP from every legal position, the counters as numbers; nothing but VID changes. -/
def Obligations.VidStepResult : Prop :=
  ∀ s : State, s.vid.inRange → (encode .vidStep).toNat = 0x30000000 ∧
    ∃ v, exec .vidStep s = .next { s with vid := v, rsp := some ⟨.ok, 0⟩ } ∧
      (s.vid.dot.toNat < 340 → v.dot.toNat = s.vid.dot.toNat + 1 ∧ v.scanline = s.vid.scanline ∧
        v.frameReady = s.vid.frameReady) ∧
      (s.vid.dot.toNat = 340 → s.vid.scanline.toInt < 260 → v.dot.toNat = 0 ∧
        v.scanline.toInt = s.vid.scanline.toInt + 1 ∧ v.frameReady = s.vid.frameReady) ∧
      (s.vid.dot.toNat = 340 → s.vid.scanline.toInt = 260 → v.dot.toNat = 0 ∧ v.scanline.toInt = -1 ∧
        v.frameReady = true)

/-- 45_video.md R163: VID.TAKE answers the flag and clears it, so a second VID.TAKE answers 0. -/
def Obligations.VidTakeResult : Prop :=
  ∀ s : State, (encode .vidTake).toNat = 0x31000000 ∧
    ∃ t, t = { s with
        vid := { s.vid with frameReady := false }
        rsp := some ⟨.ok, if s.vid.frameReady then 1 else 0⟩ } ∧
      exec .vidTake s = .next t ∧ exec .vidTake t = .next { t with rsp := some ⟨.ok, 0⟩ }

/-- 45_video.md R164, R165, R166: the three readouts, as numbers: the dot, the scanline as a signed 16-bit number (so -1
reads 0xFFFF), and the flag, which is left as it was. (The commands are the spec's own decision D16.) -/
def Obligations.VidReadoutResults : Prop :=
  ∀ s : State,
    (encode .vidRddot).toNat = 0x32000000 ∧ (encode .vidRdline).toNat = 0x33000000 ∧
    (encode .vidPeekfr).toNat = 0x34000000 ∧
    (∃ v : BitVec 16, exec .vidRddot s = .next { s with rsp := some ⟨.ok, v⟩ } ∧ v.toNat = s.vid.dot.toNat ∧
      (s.vid.inRange → v.toNat ≤ 340)) ∧
    (∃ v : BitVec 16, exec .vidRdline s = .next { s with rsp := some ⟨.ok, v⟩ } ∧ v.toInt = s.vid.scanline.toInt ∧
      (s.vid.scanline.toInt = -1 → v = 0xFFFF)) ∧
    (∃ v : BitVec 16, exec .vidPeekfr s = .next { s with rsp := some ⟨.ok, v⟩ } ∧
      v.toNat = if s.vid.frameReady then 1 else 0)

/-- 45_video.md R160: the range invariant over every command: only VID.STEP changes `dot` and `scanline`, and no command
takes them out of their ranges; at power-on they are in them. -/
def Obligations.OnlyVidStepMovesTheCounters : Prop :=
  State.reset.vid.inRange ∧
  ∀ (i : Instr) (s t : State), exec i s = .next t →
    (i ≠ .vidStep → t.vid.dot = s.vid.dot ∧ t.vid.scanline = s.vid.scanline) ∧
    (s.vid.inRange → t.vid.inRange)

/-- 10_state.md R30, 45_video.md R162: `frameReady` is 0 at power-on; VID.TAKE reads and clears it; VID.PEEKFR reads it;
VID.STEP sets it exactly at the
wrap from (340, 260), where it stays set if it was; every other command, VID.PEEKFR included, leaves it. -/
def Obligations.FrameReadyIsStickyUntilTaken : Prop :=
  State.reset.vid.frameReady = false ∧
  ∀ (i : Instr) (s t : State), exec i s = .next t →
    (i = .vidTake → t.vid.frameReady = false) ∧
    (i = .vidTake ∨ i = .vidPeekfr → t.rsp = some ⟨.ok, if s.vid.frameReady then 1 else 0⟩) ∧
    (i = .vidStep → s.vid.inRange →
      (t.vid.frameReady = true ↔
        s.vid.frameReady = true ∨ (s.vid.dot.toNat = 340 ∧ s.vid.scanline.toInt = 260))) ∧
    (i ≠ .vidTake → i ≠ .vidStep → t.vid.frameReady = s.vid.frameReady)

/-- 45_video.md R168, 30_encoding.md R95 (inferences the spec marks as its own): the frame law. From every legal position
with `frameReady` clear, the commands VID.FRAME stands for bring `dot` and `scanline` back where they were with the flag
set, nothing else but the response changed; and the flag is set exactly once on the way, at one step `k`. From the
power-on position that is the last step. -/
def Obligations.OneFrameReturnsAndSetsReadyOnce : Prop :=
  ∀ s : State, s.vid.inRange → s.vid.frameReady = false →
    (∃ is, expandLine s.params .vidFrame = .ok is ∧ is.length = 341 * 262 ∧
      execAll is s = .next { s with vid := { s.vid with frameReady := true }, rsp := some ⟨.ok, 0⟩ }) ∧
    ∃ k, k < 341 * 262 ∧
      (s.vid.dot.toNat = 0 → s.vid.scanline.toInt = -1 → k = 341 * 262 - 1) ∧
      ∀ n, n ≤ 341 * 262 → ∃ t, execAll (List.replicate n .vidStep) s = .next t ∧
        (t.vid.frameReady = true ↔ k < n)

/-! Errors and the fault log -/

/-- 46_system.md R182: SYS.FAULTS answers the log and clears nothing, with or without a cartridge. (The command
is the spec's own decision D3.) -/
def Obligations.SysFaultsResult : Prop :=
  ∀ s : State, (encode .sysFaults).toNat = 0x50000000 ∧
    ∃ v : BitVec 16, exec .sysFaults s = .next { s with rsp := some ⟨.ok, v⟩ } ∧
      (∀ n, n < 16 → v.getLsbD n = (decide (3 ≤ n) && decide (n ≤ 8) && s.faults.getLsbD n)) ∧
      (s.reservedFaultsClear → v = s.faults)

/-- 10_state.md R31: the fault log over every step: bit n is set when the step's status has code n in 3–8; no bit is
cleared and no other bit set; at power-on the log is 0; and the bits outside 3–8 read 0 in every state. (The
register is the spec's own decision D3.) -/
def Obligations.FaultLogIsSticky : Prop :=
  State.reset.faults = 0 ∧
  (∀ (s t : State), step s = .next t → ∃ r, t.rsp = some r ∧
    ∀ n, n < 16 → t.faults.getLsbD n =
      (s.faults.getLsbD n || (decide (r.status.code.toNat = n) && decide (3 ≤ n) && decide (n ≤ 8)))) ∧
  (∀ s : State, ∃ t v, exec .sysFaults s = .next t ∧ t.rsp = some ⟨.ok, v⟩ ∧
    ∀ n, n < 3 ∨ 9 ≤ n → v.getLsbD n = false)

/-- 60_exceptions.md R193, 46_system.md R184: errors are precise and of two classes. A step that does not end with OK
leaves RAM, CART, VID and the parameters as they were and makes no device request; with status 1 or 2 it leaves FAULTS
too; with status 3–8 it sets the bit of its code there. (That a port without a request is idle after the step is the
model's inference, log entry 12.) -/
def Obligations.ErrorsArePrecise : Prop :=
  ∀ (s t : State) (r : Response), step s = .next t → t.rsp = some r → r.status ≠ .ok →
    t.ram = s.ram ∧ t.cart = s.cart ∧ t.vid = s.vid ∧ t.params = s.params ∧
    t.ppuReq = .idle ∧ t.apuioReq = .idle ∧
    ((r.status.code.toNat ∈ [1, 2] ∧ t.faults = s.faults) ∨
     (r.status.code.toNat ∈ [3, 4, 5, 6, 7, 8] ∧ t.faults = s.faults ||| 1 <<< r.status.code.toNat))

/-- 30_encoding.md R76, 60_exceptions.md R191–R199: the codes, and for each status the commands that end with it and its
recorded value, NoCartridge among them with the BUS and MAP commands and CART.INFO 1–3. AddressDecodeViolation is raised
by none, and IllegalCommand by none that decodes. -/
def Obligations.EachStatusComesFromItsCommands : Prop :=
  [Status.ok, .malformedHeader, .unsupportedMapper, .addressDecodeViolation, .noInterruptPending, .chrNotSupported,
    .contentOutOfRange, .noCartridge, .illegalCommand].map (fun st => st.code.toNat) = [0, 1, 2, 3, 4, 5, 6, 7, 8] ∧
  ∀ (i : Instr) (s t : State) (r : Response), exec i s = .next t → t.rsp = some r →
    (r.status = .malformedHeader → i = .cartLoad ∧
      (s.ports.img.length < 16 ∧ r.data = 0 ∨ 16 ≤ s.ports.img.length ∧ r.data = 1)) ∧
    (r.status = .unsupportedMapper → i = .cartLoad ∧ ∃ h, parseHeader s.params.headerMagic (s.ports.img.take 16) = .ok h ∧
      registryLookup s.params.registry h.mapperId = none ∧ r.data = h.mapperId.setWidth 16) ∧
    r.status ≠ .addressDecodeViolation ∧
    (r.status = .noInterruptPending → i = .vecResolve 0 ∧ r.data = 0) ∧
    (r.status = .chrNotSupported → s.cart ≠ none ∧
      (i = .mapReadChr r.data ∨ i = .mapPeekChr r.data ∨ ∃ d, i = .mapWriteChr r.data d)) ∧
    (r.status = .contentOutOfRange → s.cart ≠ none ∧ 0x8000 ≤ r.data.toNat ∧
      (i = .busRead r.data ∨ i = .busPeek r.data ∨ i = .mapReadPrg r.data ∨ i = .mapPeekPrg r.data)) ∧
    (r.status = .noCartridge → s.cart = none ∧ r.data = 0 ∧
      ((∃ a, i = .busRead a ∨ i = .busPeek a ∨ ∃ d, i = .busWrite a d) ∨
       (∃ a, i = .mapReadPrg a ∨ i = .mapPeekPrg a ∨ (∃ d, i = .mapWritePrg a d) ∨
         i = .mapReadChr a ∨ i = .mapPeekChr a ∨ ∃ d, i = .mapWriteChr a d) ∨
       ∃ f, f ≠ .flags ∧ i = .cartInfo f)) ∧
    r.status ≠ .illegalCommand

/-! Whole-machine rules -/

/-- 10_state.md R37 (an inference the spec marks as its own), with the canonical form of RAM: every step keeps the
invariant, from every state that meets it. -/
def Obligations.EveryStepKeepsTheInvariant : Prop :=
  ∀ s t : State, s.Inv → step s = .next t → t.Inv

/-- 70_reset_and_hazards.md R222: no step changes a parameter of the run. -/
def Obligations.NoStepChangesAParameter : Prop :=
  ∀ s t : State, step s = .next t → t.params = s.params

/-- 10_state.md R28 with R24: while a cartridge is loaded its content and its whole record never change: every command
but CART.LOAD and CART.UNLOAD leaves the slot as it is, and a CART.LOAD leaves it too unless it ends with OK. -/
def Obligations.LoadedCartridgeIsImmutable : Prop :=
  ∀ (i : Instr) (s t : State), exec i s = .next t →
    (changesCart i = false → t.cart = s.cart) ∧
    (i = .cartLoad → (∀ r, t.rsp = some r → r.status ≠ .ok) → t.cart = s.cart)

/-- 20_memory.md R64 with R44, R52: RAM after any sequence of commands without CART.LOAD and CART.UNLOAD, with a cartridge
in: each command answers a next state, one that ends with an error included, and every byte is the one the last BUS.WRITE to it stored, or what it was before; so from power-on contents it is
RAM_INIT or the last byte written, at each of the four mirrors alike. -/
def Obligations.RamHoldsTheLastStore : Prop :=
  ∀ (is : List Instr) (s : State) (c : Cart), s.cart = some c → (∀ i ∈ is, changesCart i = false) →
    ∃ t, execAll is s = .next t ∧ t.cart = some c ∧
      ∀ j : BitVec 11, Memory.read t.ram j = (lastStoreToRam j is).getD (Memory.read s.ram j)

/-- 30_encoding.md R82, 60_exceptions.md R206: a step makes at most one device request, none when DEVICES = NULL, and
none unless its command is a BUS command. (That a port without a request is idle after the step is the model's
inference, log entry 12.) -/
def Obligations.AtMostOneDeviceRequest : Prop :=
  ∀ s t : State, step s = .next t →
    (t.ppuReq = .idle ∨ t.apuioReq = .idle) ∧
    (s.params.devices = .null → t.ppuReq = .idle ∧ t.apuioReq = .idle) ∧
    (t.ppuReq ≠ .idle ∨ t.apuioReq ≠ .idle → ∃ inp rest, s.inputs = inp :: rest ∧ ∃ a d,
      decode inp.cmd = .ok (.busRead a) ∨ decode inp.cmd = .ok (.busPeek a) ∨ decode inp.cmd = .ok (.busWrite a d))

/-- 45_video.md (R160, R167), 44_vector.md R153: the timing unit and the resolver depend on nothing else of the block: in
two states with the same VID the VID commands answer alike and leave the same VID, and with the same parameters
VEC.RESOLVE answers alike, whatever RAM, CART, FAULTS, the ports and the device answers are. -/
def Obligations.TimingAndResolverIgnoreTheRest : Prop :=
  (∀ (s s' : State), s.vid = s'.vid → ∀ i ∈ [Instr.vidStep, .vidTake, .vidRddot, .vidRdline, .vidPeekfr],
    ∃ t t', exec i s = .next t ∧ exec i s' = .next t' ∧ t.vid = t'.vid ∧ t.rsp = t'.rsp) ∧
  (∀ (s s' : State) (m : PendingSet), s.params = s'.params →
    ∃ t t', exec (.vecResolve m) s = .next t ∧ exec (.vecResolve m) s' = .next t' ∧ t.rsp = t'.rsp)

/-! Frames -/

/-- Frame of the commands that store nothing and read: BUS.READ, BUS.PEEK, the MAP reads and peeks, VEC.RESOLVE, the VID
readouts, CART.INFO and SYS.FAULTS leave every RAM byte, the cartridge, VID, the parameters and the input ports as they
were, and FAULTS too unless they end with an error, whose own bit alone they set; only BUS.READ and BUS.PEEK touch the
device ports. (43_bus.md, 42_mapper.md, 44_vector.md, 45_video.md, 41_cartridge.md, 46_system.md: "Flags written:
none".) -/
def Obligations.FrameOfReadingCommands : Prop :=
  ∀ (s t : State) (a : Addr) (m : PendingSet) (f : InfoField),
    ∀ i ∈ [Instr.busRead a, .busPeek a, .mapReadPrg a, .mapPeekPrg a, .mapReadChr a, .mapPeekChr a, .vecResolve m,
        .vidRddot, .vidRdline, .vidPeekfr, .cartInfo f, .sysFaults],
      exec i s = .next t →
        (∀ j, Memory.read t.ram j = Memory.read s.ram j) ∧ t.cart = s.cart ∧ t.vid = s.vid ∧ t.params = s.params ∧
        t.ports = s.ports ∧ t.inputs = s.inputs ∧
        (∃ r, t.rsp = some r ∧ (r.status = .ok → t.faults = s.faults) ∧
          ∀ n, n < 16 → n ≠ r.status.code.toNat → t.faults.getLsbD n = s.faults.getLsbD n) ∧
        (i ≠ .busRead a → i ≠ .busPeek a → t.ppuReq = s.ppuReq ∧ t.apuioReq = s.apuioReq)

/-- Frame of the writing commands. The RAM byte BUS.WRITE stores to is the one the decoder gives for its address
(`ramIndex` of the offset `busDecode` answers), where a cartridge is loaded and the decoder answers RAM; every other byte
of RAM reads as before, and every byte does where it stores none. MAP.WRITEPRG and MAP.WRITECHR store to no RAM byte.
The three change no cartridge, no counter, no parameter, and no FAULTS bit unless they end with an error. -/
def Obligations.FrameOfWritingCommands : Prop :=
  ∀ (s t : State) (a : Addr) (d : Byte),
    ∀ i ∈ [Instr.busWrite a d, .mapWritePrg a d, .mapWriteChr a d],
      exec i s = .next t →
        (∀ j, (i = .busWrite a d ∧ s.cart ≠ none ∧ (busDecode a).1 = .ram ∧ j = ramIndex (busDecode a).2) ∨
          Memory.read t.ram j = Memory.read s.ram j) ∧
        t.cart = s.cart ∧ t.vid = s.vid ∧ t.params = s.params ∧ t.ports = s.ports ∧ t.inputs = s.inputs ∧
        (∃ r, t.rsp = some r ∧ (r.status = .ok → t.faults = s.faults) ∧
          ∀ n, n < 16 → n ≠ r.status.code.toNat → t.faults.getLsbD n = s.faults.getLsbD n) ∧
        (i ≠ .busWrite a d → t.ppuReq = s.ppuReq ∧ t.apuioReq = s.apuioReq)

/-- Frame of VID.STEP, VID.TAKE, CART.LOAD and CART.UNLOAD: each leaves every RAM byte, FAULTS, the parameters, the input
and the device ports as they were; the VID commands leave the cartridge, the CART commands leave VID, and VID.TAKE leaves
the counters. -/
def Obligations.FrameOfTimingAndCartCommands : Prop :=
  ∀ (s t : State), ∀ i ∈ [Instr.vidStep, .vidTake, .cartLoad, .cartUnload],
    exec i s = .next t →
      (∀ j, Memory.read t.ram j = Memory.read s.ram j) ∧ t.faults = s.faults ∧ t.params = s.params ∧
      t.ports = s.ports ∧ t.inputs = s.inputs ∧ t.ppuReq = s.ppuReq ∧ t.apuioReq = s.apuioReq ∧
      (i = .vidStep ∨ i = .vidTake → t.cart = s.cart) ∧
      (i = .cartLoad ∨ i = .cartUnload → t.vid = s.vid) ∧
      (i = .vidTake → t.vid.dot = s.vid.dot ∧ t.vid.scanline = s.vid.scanline)

/-! The registry and the assembler -/

/-- 42_mapper.md R121, R122: registering an id makes it, and only it, known; registering an id twice is refused; and the
default registry is what registering FixedBank for id 0 in an empty registry gives. (That the model refuses is the spec's
own decision D21.) -/
def Obligations.RegisteringAnIdTwiceIsRefused : Prop :=
  (∀ (r : Config.Registry) (id : Byte) (k : Config.MapperKind), registryLookup r id = none →
    ∃ r', register r id k = some r' ∧ registryLookup r' id = some k ∧
      (∀ id', id' ≠ id → registryLookup r' id' = registryLookup r id') ∧
      ∀ k', register r' id k' = none) ∧
  register [] 0 .fixedBank = some Config.defaults.registry ∧
  (∀ id : Byte, id.toNat ≠ 0 → registryLookup Config.defaults.registry id = none)

/-- 30_encoding.md R94–R96: what the pseudo-instructions expand to; a VEC.FETCH of the empty set is an assembly error, and
that is the only line that does not expand. (The pseudo-instructions are the spec's own decision D33. The clause for
VEC.FETCH is over every parameter set: that v + 1 is 0x0000 for a vector v of 0xFFFF is in no rule, but the model's
PRESUMED choice, log entry 1.) -/
def Obligations.PseudoInstructionsExpand : Prop :=
  ∀ p : Config.Params,
    (∀ n, expandLine p (.vidStepN n) = .ok (List.replicate n .vidStep)) ∧
    expandLine p .vidFrame = .ok (List.replicate 89342 .vidStep) ∧
    (∀ m : PendingSet, m ≠ 0 → ∃ v, resolveVector p m = .ok v ∧
      expandLine p (.vecFetch m) = .ok [.vecResolve m, .busRead v, .busRead (v + 1)]) ∧
    expandLine p (.vecFetch 0) = .error .emptyFetch ∧
    (∀ l : Line, l.wf = true ↔ ∃ is, expandLine p l = .ok is)

/-- 30_encoding.md R96, 60_exceptions.md R203: with an image of one PRG bank wholly present and the default vectors, the
commands VEC.FETCH stands for all end with OK, and the last two answer the bytes at the end of the bank that form the
entry point, low byte first, at the vector's own offset. (The order is general knowledge, log entry 1.) -/
def Obligations.VecFetchReadsTheEntryPoint : Prop :=
  ∀ (s : State) (img : List Byte) (c : Cart) (m : PendingSet) (v : Addr) (base : Nat),
    s.params = Config.defaults → s.cart = some c → loadImage s.params img = .ok c → c.hdr.prgBankCount = 1 →
    base = 16 + (if c.hdr.hasTrainer then 512 else 0) → base + 0x4000 ≤ img.length →
    resolveVector s.params m = .ok v →
    ∃ i1 i2 i3 s1 s2 s3 lo hi, expandLine s.params (.vecFetch m) = .ok [i1, i2, i3] ∧
      exec i1 s = .next s1 ∧ exec i2 s1 = .next s2 ∧ exec i3 s2 = .next s3 ∧
      s1.rsp = some ⟨.ok, v⟩ ∧ s2.rsp = some ⟨.ok, lo.setWidth 16⟩ ∧ s3.rsp = some ⟨.ok, hi.setWidth 16⟩ ∧
      img[base + v.toNat - 0xC000]? = some lo ∧ img[base + v.toNat - 0xC000 + 1]? = some hi ∧
      (entryPoint lo hi).toNat = 256 * hi.toNat + lo.toNat
end

