-- ==== Sys2Proof/Laws/Decode.lean ====
section
/-! SUPPORT. The small lemmas of the command word's fields. -/

namespace Sys2Proof

/-- The word of given fields as a number. -/
theorem toNat_pack (f : Fields) :
    f.pack.toNat = f.unit.toNat * 0x10000000 + f.op.toNat * 0x1000000 + f.a.toNat * 0x100 + f.d.toNat := by
  have h1 := f.op.isLt
  have h2 := f.a.isLt
  have h3 := f.d.isLt
  simp only [Fields.pack, BitVec.toNat_append]
  rw [← Nat.shiftLeft_add_eq_or_of_lt h3, ← Nat.shiftLeft_add_eq_or_of_lt h2, ← Nat.shiftLeft_add_eq_or_of_lt h1]
  simp only [Nat.shiftLeft_eq]
  omega

/-- The UNIT field of a word as a number. -/
theorem toNat_fieldsOf_unit (w : Word) : (fieldsOf w).unit.toNat = w.toNat / 0x10000000 := by
  have := w.isLt
  simp only [fieldsOf, BitVec.extractLsb'_toNat, Nat.shiftRight_eq_div_pow]
  omega

/-- The OP field of a word as a number. -/
theorem toNat_fieldsOf_op (w : Word) : (fieldsOf w).op.toNat = w.toNat / 0x1000000 % 16 := by
  simp [fieldsOf, BitVec.extractLsb'_toNat, Nat.shiftRight_eq_div_pow]

/-- The A field of a word as a number. -/
theorem toNat_fieldsOf_a (w : Word) : (fieldsOf w).a.toNat = w.toNat / 0x100 % 0x10000 := by
  simp [fieldsOf, BitVec.extractLsb'_toNat, Nat.shiftRight_eq_div_pow]

/-- The D field of a word as a number. -/
theorem toNat_fieldsOf_d (w : Word) : (fieldsOf w).d.toNat = w.toNat % 0x100 := by
  simp [fieldsOf, BitVec.extractLsb'_toNat]

/-- Packing fields and taking them apart gives them back: no bit of a field is dropped or moved. -/
@[simp] theorem fieldsOf_pack (f : Fields) : fieldsOf f.pack = f := by
  have h0 := f.unit.isLt
  have h1 := f.op.isLt
  have h2 := f.a.isLt
  have h3 := f.d.isLt
  have hp := toNat_pack f
  have e0 : (fieldsOf f.pack).unit = f.unit := BitVec.eq_of_toNat_eq (by rw [toNat_fieldsOf_unit, hp]; omega)
  have e1 : (fieldsOf f.pack).op = f.op := BitVec.eq_of_toNat_eq (by rw [toNat_fieldsOf_op, hp]; omega)
  have e2 : (fieldsOf f.pack).a = f.a := BitVec.eq_of_toNat_eq (by rw [toNat_fieldsOf_a, hp]; omega)
  have e3 : (fieldsOf f.pack).d = f.d := BitVec.eq_of_toNat_eq (by rw [toNat_fieldsOf_d, hp]; omega)
  show Fields.mk (fieldsOf f.pack).unit (fieldsOf f.pack).op (fieldsOf f.pack).a (fieldsOf f.pack).d = f
  rw [e0, e1, e2, e3]

/-- Taking a word apart and packing its fields gives it back. -/
@[simp] theorem pack_fieldsOf (w : Word) : (fieldsOf w).pack = w :=
  BitVec.eq_of_toNat_eq (by
    rw [toNat_pack, toNat_fieldsOf_unit, toNat_fieldsOf_op, toNat_fieldsOf_a, toNat_fieldsOf_d]
    omega)

/-- `orNonzero` answers a command exactly where its check holds. -/
theorem orNonzero_eq_ok {ok : Bool} {i j : Instr} : orNonzero ok i = .ok j ↔ ok = true ∧ i = j := by
  cases ok <;> simp [orNonzero]

/-- `orNonzero` answers an error exactly where its check fails. -/
theorem orNonzero_eq_error {ok : Bool} {i : Instr} {e : CommandFlaw} :
    orNonzero ok i = .error e ↔ ok = false ∧ e = .nonzeroField := by
  cases ok <;> simp [orNonzero, eq_comm]

/-- Index and field of CART.INFO determine each other. -/
@[simp] theorem ofIndex_index (f : InfoField) : InfoField.ofIndex f.index = f := by cases f <;> rfl

end Sys2Proof
end

