-- ==== Sys2Proof/Laws/Mapper.lean ====
section
/-! SUPPORT. The registry, the header parse, the load of an image and FixedBank's PRG read, case by case. -/

namespace Sys2Proof.Machine

/-- A registry table read by a plain number. -/
theorem getElem?_registrySet (r : Config.Registry) (n : Nat) (k : Config.MapperKind) (m : Nat) :
    ((registrySet r n k)[m]?).join = if m = n then some k else (r[m]?).join := by
  induction r generalizing n m with
  | nil =>
    induction n generalizing m with
    | zero => cases m <;> simp [registrySet]
    | succ n ih =>
      cases m with
      | zero => simp [registrySet]
      | succ m => simpa [registrySet] using ih m
  | cons x r ih =>
    cases n with
    | zero => cases m <;> simp [registrySet]
    | succ n =>
      cases m with
      | zero => simp [registrySet]
      | succ m => simpa [registrySet] using ih n m

/-- After an entry is set, its id has the kind set and every other id what it had. -/
theorem registryLookup_set (r : Config.Registry) (id : Byte) (k : Config.MapperKind) (id' : Byte) :
    registryLookup (registrySet r id.toNat k) id' = if id' = id then some k else registryLookup r id' := by
  simp only [registryLookup, getElem?_registrySet, BitVec.toNat_inj]

/-- PARSE of a sequence of the wrong length. -/
theorem parseHeader_wrongLength {g : Config.Magic} {b : List Byte} (h : b.length ≠ 16) :
    parseHeader g b = .error (.malformedHeader .wrongLength) := by
  simp [parseHeader, headerSize, h]

/-- PARSE of sixteen bytes with a wrong magic. -/
theorem parseHeader_wrongMagic {g : Config.Magic} {b : List Byte} (h : b.length = 16) (hm : b.take 4 ≠ magicBytes g) :
    parseHeader g b = .error (.malformedHeader .wrongMagic) := by
  simp [parseHeader, headerSize, h, hm]

/-- PARSE of sixteen bytes with the right magic. -/
theorem parseHeader_ok {g : Config.Magic} {b : List Byte} (h : b.length = 16) (hm : b.take 4 = magicBytes g) :
    parseHeader g b = .ok (headerOf b) := by
  simp [parseHeader, headerSize, h, hm]

/-- What an image that loads is: sixteen bytes at least, the right magic, a registered mapper id; and its cartridge. -/
theorem loadImage_ok {p : Config.Params} {img : List Byte} {c : Cart} (h : loadImage p img = .ok c) :
    16 ≤ img.length ∧ img.take 4 = magicBytes p.headerMagic ∧
    registryLookup p.registry (headerOf (img.take 16)).mapperId = some .fixedBank ∧
    c = fixedBankInit (headerOf (img.take 16)) img := by
  simp only [loadImage, headerSize] at h
  by_cases h1 : (img.take 16).length = 16
  · by_cases h2 : (img.take 16).take 4 = magicBytes p.headerMagic
    · rw [parseHeader_ok h1 h2] at h
      simp only [createCart] at h
      refine ⟨by simpa using h1, by simpa [List.take_take] using h2, ?_⟩
      split at h
      · cases h
      · next hk => exact ⟨hk, by simpa using h.symm⟩
    · rw [parseHeader_wrongMagic h1 h2] at h
      cases h
  · rw [parseHeader_wrongLength h1] at h
    cases h

/-- Why an image does not load: too short, a wrong magic, or a mapper id nobody registered. -/
theorem loadImage_error {p : Config.Params} {img : List Byte} {e : BlockError} (h : loadImage p img = .error e) :
    (img.length < 16 ∧ e = .malformedHeader .wrongLength) ∨
    (16 ≤ img.length ∧ e = .malformedHeader .wrongMagic) ∨
    ∃ hdr, parseHeader p.headerMagic (img.take 16) = .ok hdr ∧ registryLookup p.registry hdr.mapperId = none ∧
      e = .unsupportedMapper hdr.mapperId := by
  simp only [loadImage, headerSize] at h
  by_cases h1 : (img.take 16).length = 16
  · have hl : 16 ≤ img.length := by simpa using h1
    by_cases h2 : (img.take 16).take 4 = magicBytes p.headerMagic
    · rw [parseHeader_ok h1 h2] at h
      simp only [createCart] at h
      split at h
      · next hk => exact .inr (.inr ⟨_, parseHeader_ok h1 h2, hk, by simpa using h.symm⟩)
      · cases h
    · rw [parseHeader_wrongMagic h1 h2] at h
      exact .inr (.inl ⟨hl, by simpa using h.symm⟩)
  · rw [parseHeader_wrongLength h1] at h
    have hl : img.length < 16 := by
      simp only [List.length_take] at h1
      omega
    exact .inl ⟨hl, by simpa using h.symm⟩

/-- The cartridge of a loaded image has that image as its content. -/
theorem loadImage_content {p : Config.Params} {img : List Byte} {c : Cart} (h : loadImage p img = .ok c) :
    c.content = img := by
  rw [(loadImage_ok h).2.2.2]
  rfl

/-- In the PRG window address bit 14 is 1 exactly from 0xC000 on. -/
theorem getLsbD_14 {a : Addr} (h : 0x8000 ≤ a.toNat) : a.getLsbD 14 = decide (0xC000 ≤ a.toNat) := by
  have := a.isLt
  rw [BitVec.getLsbD, Nat.testBit_eq_decide_div_mod_eq, decide_eq_decide]
  omega

/-- The bank FixedBank selects, by number. -/
theorem fixedBankStart_eq {c : Cart} {a : Addr} (h : 0x8000 ≤ a.toNat) :
    fixedBankStart c a = if 0xC000 ≤ a.toNat then c.highStart else c.lowStart := by
  simp only [fixedBankStart, getLsbD_14 h, decide_eq_true_eq]

/-- A PRG read below the window. -/
theorem readPrg_below {c : Cart} {a : Addr} (h : a.toNat < 0x8000) : Mapper.readPrg c a = .ok (Config.openBus a) := by
  simp [Mapper.readPrg, fixedBankReadPrg, BitVec.lt_def, h]

/-- A PRG read in the window of a bank that is wholly there. -/
theorem readPrg_inRange {c : Cart} {a : Addr} (h : 0x8000 ≤ a.toNat)
    (h1 : fixedBankStart c a + 0x4000 ≤ c.lowStart + c.hdr.prgBankCount.toNat * 0x4000)
    (h2 : fixedBankStart c a + 0x4000 ≤ c.content.length) :
    Mapper.readPrg c a = .ok (c.content.getD (fixedBankStart c a + a.toNat % 0x4000) 0) := by
  simp [Mapper.readPrg, fixedBankReadPrg, BitVec.lt_def, h, fixedBankInRange, Cart.prgEnd, prgBankSize, h1, h2]

/-- A PRG read in the window of a bank that is not wholly there. -/
theorem readPrg_outOfRange {c : Cart} {a : Addr} (h : 0x8000 ≤ a.toNat)
    (h1 : fixedBankStart c a + 0x4000 > c.lowStart + c.hdr.prgBankCount.toNat * 0x4000 ∨
      fixedBankStart c a + 0x4000 > c.content.length) :
    Mapper.readPrg c a = .error (.contentOutOfRange a) := by
  have : fixedBankInRange c a = false := by
    simp only [fixedBankInRange, Cart.prgEnd, prgBankSize, Bool.and_eq_false_iff]
    exact h1.imp (fun h => decide_eq_false (by omega)) (fun h => decide_eq_false (by omega))
  simp [Mapper.readPrg, fixedBankReadPrg, BitVec.lt_def, h, this]

/-- Where FixedBank's low bank begins. -/
theorem lowStart_fixedBankInit (h : Header) (img : List Byte) :
    (fixedBankInit h img).lowStart = 16 + if h.hasTrainer then 512 else 0 := rfl

/-- Where FixedBank's high bank begins: one bank on where the header declares two or more, else with the low bank. -/
theorem highStart_fixedBankInit (h : Header) (img : List Byte) :
    (fixedBankInit h img).highStart =
      (fixedBankInit h img).lowStart + if 2 ≤ h.prgBankCount.toNat then 0x4000 else 0 := by
  simp only [fixedBankInit, prgBankSize, ge_iff_le]
  split <;> rfl

/-- Flipping address bit 14 in the PRG window stays in the window and keeps the offset in the bank. -/
theorem flip_bit14 {a : Addr} (h : 0x8000 ≤ a.toNat) :
    0x8000 ≤ (a ^^^ 0x4000).toNat ∧ (a ^^^ 0x4000).toNat % 0x4000 = a.toNat % 0x4000 := by
  have top : ∀ x : Addr, x.toNat.testBit 15 = true ↔ 0x8000 ≤ x.toNat := by
    intro x
    have := x.isLt
    rw [Nat.testBit_eq_decide_div_mod_eq, decide_eq_true_eq]
    omega
  have e : (a ^^^ 0x4000).toNat = a.toNat ^^^ 2 ^ 14 := rfl
  constructor
  · rw [← top, e, Nat.testBit_xor, (top a).2 h]
    rfl
  · have := Nat.xor_mod_two_pow (a := a.toNat) (b := 2 ^ 14) (n := 14)
    rwa [Nat.mod_self, Nat.xor_zero, ← e] at this

/-- FixedBank peeks as it reads. -/
theorem peekPrg_eq_readPrg (c : Cart) (a : Addr) : Mapper.peekPrg c a = Mapper.readPrg c a := rfl

/-- A PRG read that fails is of the address in the window. -/
theorem readPrg_error {c : Cart} {a : Addr} {e : BlockError} (h : Mapper.readPrg c a = .error e) :
    e = .contentOutOfRange a ∧ 0x8000 ≤ a.toNat := by
  by_cases hw : a.toNat < 0x8000
  · rw [readPrg_below hw] at h
    cases h
  · simp only [Mapper.readPrg, fixedBankReadPrg, BitVec.lt_def] at h
    split at h
    · cases h
    · split at h
      · cases h
      · simp only [Except.error.injEq] at h
        exact ⟨h.symm, by omega⟩

end Sys2Proof.Machine
end

