-- ==== Sys2Proof/Laws/Ram.lean ====
section
/-! SUPPORT. RAM: read after write, and that every operation keeps the canonical form. -/

namespace Sys2Proof.Machine

/-- Nothing is written in an empty list. -/
@[simp] theorem written?_nil (i : Nat) : Memory.written? [] i = none := rfl

/-- After a put, the index put to holds the byte and every other index what it held. -/
theorem written?_put (m : Memory) (i : Nat) (b : Byte) (j : Nat) :
    Memory.written? (Memory.put m i b) j = if i = j then some b else Memory.written? m j := by
  induction m with
  | nil => simp [Memory.put, Memory.written?]
  | cons c m ih =>
    obtain ⟨k, v⟩ := c
    simp only [Memory.put]
    split
    · simp [Memory.written?]
    · split
      · subst_vars
        by_cases h : k = j <;> simp [Memory.written?, h]
      · simp only [Memory.written?, ih]
        by_cases h : k = j
        · subst h
          simp [show ¬ i = k by assumption]
        · simp [h]

/-- RAM after power-on reads as RAM_INIT. -/
@[simp] theorem read_nil (j : BitVec 11) : Memory.read [] j = Config.ramInit j := rfl

/-- Read after write, at the byte written and at every other byte. -/
theorem read_write (m : Memory) (i : BitVec 11) (v : Byte) (j : BitVec 11) :
    Memory.read (Memory.write m i v) j = if i = j then v else Memory.read m j := by
  simp only [Memory.read, Memory.write, written?_put, ← BitVec.toNat_inj]
  split <;> simp

/-- A put at or above `lo` and below 0x800 keeps the indices rising from `lo`. -/
theorem risingFrom_put (m : Memory) (lo i : Nat) (b : Byte) (hlo : lo ≤ i) (hi : i < 0x800)
    (h : Memory.risingFrom lo m = true) : Memory.risingFrom lo (Memory.put m i b) = true := by
  induction m generalizing lo with
  | nil => simp [Memory.put, Memory.risingFrom, hlo, hi]
  | cons c m ih =>
    obtain ⟨k, v⟩ := c
    simp only [Memory.risingFrom, Bool.and_eq_true, decide_eq_true_eq] at h
    simp only [Memory.put]
    split
    · next hik => simp [Memory.risingFrom, hlo, hi, hik, h]
    · split
      · next hik => subst hik; simp [Memory.risingFrom, hlo, hi, h]
      · next h1 h2 => simp [Memory.risingFrom, h, ih (k + 1) (by omega) h.2]

/-- A RAM write keeps the canonical form. -/
theorem wf_write (m : Memory) (i : BitVec 11) (v : Byte) (h : Memory.wf m = true) :
    Memory.wf (Memory.write m i v) = true :=
  risingFrom_put m 0 i.toNat v (Nat.zero_le _) i.isLt h

/-- In canonical form, a RAM list holds nothing at an index below its first. -/
theorem written?_of_risingFrom (m : Memory) (lo j : Nat) (h : Memory.risingFrom lo m = true) (hj : j < lo) :
    Memory.written? m j = none := by
  induction m generalizing lo with
  | nil => rfl
  | cons c m ih =>
    obtain ⟨k, v⟩ := c
    simp only [Memory.risingFrom, Bool.and_eq_true, decide_eq_true_eq] at h
    simp [Memory.written?, show ¬ k = j by omega, ih (k + 1) h.2 (by omega)]

/-- Two RAM lists in canonical form that hold the same written bytes are the same list. -/
theorem eq_of_written?_eq (m m' : Memory) (lo : Nat) (h : Memory.risingFrom lo m = true)
    (h' : Memory.risingFrom lo m' = true) (e : ∀ j, Memory.written? m j = Memory.written? m' j) : m = m' := by
  induction m generalizing lo m' with
  | nil =>
    cases m' with
    | nil => rfl
    | cons c m' =>
      have := e c.1
      simp [Memory.written?] at this
  | cons c m ih =>
    obtain ⟨k, v⟩ := c
    cases m' with
    | nil =>
      have := e k
      simp [Memory.written?] at this
    | cons c' m' =>
      obtain ⟨k', v'⟩ := c'
      simp only [Memory.risingFrom, Bool.and_eq_true, decide_eq_true_eq] at h h'
      have hk : k = k' := by
        rcases Nat.lt_trichotomy k k' with hlt | heq | hgt
        · have := e k
          simp [Memory.written?, show ¬ k' = k by omega,
            written?_of_risingFrom m' (k' + 1) k h'.2 (by omega)] at this
        · exact heq
        · have := e k'
          simp [Memory.written?, show ¬ k = k' by omega,
            written?_of_risingFrom m (k + 1) k' h.2 (by omega)] at this
      subst hk
      have hv : v = v' := by simpa [Memory.written?] using e k
      subst hv
      rw [ih m' (k + 1) h.2 h'.2 fun j => ?_]
      by_cases hj : k = j
      · subst hj
        rw [written?_of_risingFrom m (k + 1) k h.2 (by omega), written?_of_risingFrom m' (k + 1) k h'.2 (by omega)]
      · simpa [Memory.written?, hj] using e j

end Sys2Proof.Machine
end

