-- ==== Sys2Proof/Laws/State.lean ====
section
/-! SUPPORT. One lemma per field of the state and shared update: what the update leaves in the field. -/

namespace Sys2Proof.Machine

variable (s : State)

@[simp] theorem State.respond_ram (d : BitVec 16) : (s.respond d).ram = s.ram := rfl
@[simp] theorem State.respond_cart (d : BitVec 16) : (s.respond d).cart = s.cart := rfl
@[simp] theorem State.respond_vid (d : BitVec 16) : (s.respond d).vid = s.vid := rfl
@[simp] theorem State.respond_faults (d : BitVec 16) : (s.respond d).faults = s.faults := rfl
@[simp] theorem State.respond_params (d : BitVec 16) : (s.respond d).params = s.params := rfl
@[simp] theorem State.respond_ports (d : BitVec 16) : (s.respond d).ports = s.ports := rfl
@[simp] theorem State.respond_inputs (d : BitVec 16) : (s.respond d).inputs = s.inputs := rfl
@[simp] theorem State.respond_rsp (d : BitVec 16) : (s.respond d).rsp = some ⟨.ok, d⟩ := rfl
@[simp] theorem State.respond_ppuReq (d : BitVec 16) : (s.respond d).ppuReq = s.ppuReq := rfl
@[simp] theorem State.respond_apuioReq (d : BitVec 16) : (s.respond d).apuioReq = s.apuioReq := rfl

@[simp] theorem State.raise_ram (e : BlockError) : (s.raise e).ram = s.ram := rfl
@[simp] theorem State.raise_cart (e : BlockError) : (s.raise e).cart = s.cart := rfl
@[simp] theorem State.raise_vid (e : BlockError) : (s.raise e).vid = s.vid := rfl
@[simp] theorem State.raise_faults (e : BlockError) : (s.raise e).faults = logFault s.faults e.status := rfl
@[simp] theorem State.raise_params (e : BlockError) : (s.raise e).params = s.params := rfl
@[simp] theorem State.raise_ports (e : BlockError) : (s.raise e).ports = s.ports := rfl
@[simp] theorem State.raise_inputs (e : BlockError) : (s.raise e).inputs = s.inputs := rfl
@[simp] theorem State.raise_rsp (e : BlockError) : (s.raise e).rsp = some ⟨e.status, e.value⟩ := rfl
@[simp] theorem State.raise_ppuReq (e : BlockError) : (s.raise e).ppuReq = s.ppuReq := rfl
@[simp] theorem State.raise_apuioReq (e : BlockError) : (s.raise e).apuioReq = s.apuioReq := rfl

@[simp] theorem State.accept_ram (inp : Input) (rest : List Input) : (s.accept inp rest).ram = s.ram := rfl
@[simp] theorem State.accept_cart (inp : Input) (rest : List Input) : (s.accept inp rest).cart = s.cart := rfl
@[simp] theorem State.accept_vid (inp : Input) (rest : List Input) : (s.accept inp rest).vid = s.vid := rfl
@[simp] theorem State.accept_faults (inp : Input) (rest : List Input) : (s.accept inp rest).faults = s.faults := rfl
@[simp] theorem State.accept_params (inp : Input) (rest : List Input) : (s.accept inp rest).params = s.params := rfl
@[simp] theorem State.accept_ports (inp : Input) (rest : List Input) : (s.accept inp rest).ports = inp := rfl
@[simp] theorem State.accept_inputs (inp : Input) (rest : List Input) : (s.accept inp rest).inputs = rest := rfl
@[simp] theorem State.accept_rsp (inp : Input) (rest : List Input) : (s.accept inp rest).rsp = s.rsp := rfl
@[simp] theorem State.accept_ppuReq (inp : Input) (rest : List Input) : (s.accept inp rest).ppuReq = .idle := rfl
@[simp] theorem State.accept_apuioReq (inp : Input) (rest : List Input) : (s.accept inp rest).apuioReq = .idle := rfl

@[simp] theorem State.withFetchWord_ram (nbits w : Nat) : (s.withFetchWord nbits w).ram = s.ram := rfl
@[simp] theorem State.withFetchWord_cart (nbits w : Nat) : (s.withFetchWord nbits w).cart = s.cart := rfl
@[simp] theorem State.withFetchWord_vid (nbits w : Nat) : (s.withFetchWord nbits w).vid = s.vid := rfl
@[simp] theorem State.withFetchWord_faults (nbits w : Nat) : (s.withFetchWord nbits w).faults = s.faults := rfl
@[simp] theorem State.withFetchWord_params (nbits w : Nat) : (s.withFetchWord nbits w).params = s.params := rfl
@[simp] theorem State.withFetchWord_ports (nbits w : Nat) : (s.withFetchWord nbits w).ports = s.ports := rfl
@[simp] theorem State.withFetchWord_inputs (nbits w : Nat) : (s.withFetchWord nbits w).inputs = withNextCommand s (BitVec.ofNat 32 (w % 2 ^ nbits)) := rfl
@[simp] theorem State.withFetchWord_rsp (nbits w : Nat) : (s.withFetchWord nbits w).rsp = s.rsp := rfl
@[simp] theorem State.withFetchWord_ppuReq (nbits w : Nat) : (s.withFetchWord nbits w).ppuReq = s.ppuReq := rfl
@[simp] theorem State.withFetchWord_apuioReq (nbits w : Nat) : (s.withFetchWord nbits w).apuioReq = s.apuioReq := rfl

end Sys2Proof.Machine
end

