-- ==== Sys2Proof/Laws/Ops.lean ====
section
/-! SUPPORT. One lemma for each shared operation: what it does in each of its cases. -/

namespace Sys2Proof.Machine

/-- With no cartridge a command that needs one raises NoCartridge. -/
@[simp] theorem withCart_none {s : State} {k : Cart → State} (h : s.cart = none) : s.withCart k = s.raise .noCartridge := by
  simp [State.withCart, h]

/-- With a cartridge a command that needs one runs on it. -/
@[simp] theorem withCart_some {s : State} {k : Cart → State} {c : Cart} (h : s.cart = some c) : s.withCart k = k c := by
  simp [State.withCart, h]

/-- A read that succeeds ends with its byte. -/
@[simp] theorem finishRead_ok (s t : State) (v : Byte) : s.finishRead (.ok (v, t)) = t.respond (zext16 v) := rfl

/-- A read that fails ends with its error in the state before it. -/
@[simp] theorem finishRead_error (s : State) (e : BlockError) : s.finishRead (.error e) = s.raise e := rfl

/-- What a logged status adds to FAULTS, bit by bit: the bit of its code, if that is 3–8. -/
theorem getLsbD_faultBit (st : Status) (n : Nat) (hn : n < 16) :
    st.faultBit.getLsbD n = (decide (st.code.toNat = n) && decide (3 ≤ n) && decide (n ≤ 8)) := by
  interval_cases n <;> cases st <;> decide

/-- Logging sets bits and clears none. -/
theorem getLsbD_logFault (f : BitVec 16) (st : Status) (n : Nat) (hn : n < 16) :
    (logFault f st).getLsbD n = (f.getLsbD n || (decide (st.code.toNat = n) && decide (3 ≤ n) && decide (n ≤ 8))) := by
  rw [← getLsbD_faultBit st n hn]
  simp [logFault]

/-- Logging a status keeps the hardwired bits 0. -/
theorem logFault_reserved (f : BitVec 16) (st : Status) (h : f &&& ~~~faultsImplemented = 0) :
    logFault f st &&& ~~~faultsImplemented = 0 := by
  have h1 : st.faultBit &&& ~~~faultsImplemented = 0 := by cases st <;> decide
  ext k hk
  have h2 := congrArg (·.getLsbD k) h
  have h3 := congrArg (·.getLsbD k) h1
  simp [BitVec.getLsbD_eq_getElem hk] at h2 h3
  simp only [logFault, BitVec.getElem_and, BitVec.getElem_or, BitVec.getElem_not]
  by_cases hf : faultsImplemented[k] = true <;> simp_all

/-- Statuses 0–2 leave FAULTS as it is. -/
theorem logFault_unlogged (f : BitVec 16) (st : Status) (h : st.logged = false) : logFault f st = f := by
  simp [logFault, Status.faultBit, h]

/-! The decode table by ranges (20_memory.md R42). -/

theorem busDecode_ram {a : Addr} (h : a.toNat ≤ 0x1FFF) : busDecode a = (.ram, a &&& 0x07FF) := by
  simp [busDecode, BitVec.le_def, h]

theorem busDecode_ppu {a : Addr} (h1 : 0x2000 ≤ a.toNat) (h2 : a.toNat ≤ 0x3FFF) :
    busDecode a = (.ppu, a &&& 0x0007) := by
  simp [busDecode, BitVec.le_def, show ¬ a.toNat ≤ 0x1FFF by omega, h2]

theorem busDecode_apuIo {a : Addr} (h1 : 0x4000 ≤ a.toNat) (h2 : a.toNat ≤ 0x4017) :
    busDecode a = (.apuIo, a - 0x4000) := by
  simp [busDecode, BitVec.le_def, show ¬ a.toNat ≤ 0x1FFF by omega, show ¬ a.toNat ≤ 0x3FFF by omega, h2]

theorem busDecode_openBus {a : Addr} (h1 : 0x4018 ≤ a.toNat) (h2 : a.toNat ≤ 0x401F) :
    busDecode a = (.openBus, a - 0x4018) := by
  simp [busDecode, BitVec.le_def, show ¬ a.toNat ≤ 0x1FFF by omega, show ¬ a.toNat ≤ 0x3FFF by omega,
    show ¬ a.toNat ≤ 0x4017 by omega, h2]

theorem busDecode_cart {a : Addr} (h1 : 0x4020 ≤ a.toNat) : busDecode a = (.cart, a) := by
  simp [busDecode, BitVec.le_def, show ¬ a.toNat ≤ 0x1FFF by omega, show ¬ a.toNat ≤ 0x3FFF by omega,
    show ¬ a.toNat ≤ 0x4017 by omega, show ¬ a.toNat ≤ 0x401F by omega]

/-- The RAM offset of an address as a number. -/
theorem toNat_ramOffset (a : Addr) : (a &&& 0x07FF).toNat = a.toNat % 0x800 :=
  Nat.and_two_pow_sub_one_eq_mod a.toNat 11

/-- The PPU register offset of an address as a number. -/
theorem toNat_ppuOffset (a : Addr) : (a &&& 0x0007).toNat = a.toNat % 8 :=
  Nat.and_two_pow_sub_one_eq_mod a.toNat 3

/-- The RAM index of a decoded address is the address modulo 0x800. -/
theorem toNat_ramIndex (a : Addr) : (ramIndex (a &&& 0x07FF)).toNat = a.toNat % 0x800 := by
  rw [ramIndex, BitVec.toNat_setWidth, toNat_ramOffset]
  omega

/-- The PPU register index of a decoded address is the address modulo 8. -/
theorem toNat_ppuIndex (a : Addr) : (ppuIndex (a &&& 0x0007)).toNat = a.toNat % 8 := by
  rw [ppuIndex, BitVec.toNat_setWidth, toNat_ppuOffset]
  omega

/-- The APU/IO offset of a decoded address is its distance from 0x4000. -/
theorem toNat_apuIoIndex (a : Addr) (h1 : 0x4000 ≤ a.toNat) (h2 : a.toNat ≤ 0x4017) :
    (apuIoIndex (a - 0x4000)).toNat = a.toNat - 0x4000 := by
  simp only [apuIoIndex, BitVec.toNat_setWidth]
  rw [BitVec.toNat_sub_of_le (by simpa [BitVec.le_def] using h1)]
  simp
  omega

/-! The bus primitives. -/

/-- What a bus read can leave: the state it was given, or that state with a READ request at one device port. -/
theorem busRead_ok {c : Cart} {a : Addr} {s t : State} {v : Byte} (h : busRead c a s = .ok (v, t)) :
    t = s ∨ (s.params.devices = .external ∧
      ((∃ i, t = { s with ppuReq := .read i }) ∨ ∃ i, t = { s with apuioReq := .read i })) := by
  simp only [busRead] at h
  split at h
  · simp_all
  · simp only [ppuRead, Except.ok.injEq] at h
    split at h <;> simp_all
    exact .inr (.inl ⟨_, h.2.symm⟩)
  · simp only [apuIoRead, Except.ok.injEq] at h
    split at h <;> simp_all
    exact .inr (.inr ⟨_, h.2.symm⟩)
  · simp_all
  · simp only [mapperResult] at h
    split at h <;> simp_all

/-- What a bus peek can leave: the state it was given, or that state with a PEEK request at one device port. -/
theorem busPeek_ok {c : Cart} {a : Addr} {s t : State} {v : Byte} (h : busPeek c a s = .ok (v, t)) :
    t = s ∨ (s.params.devices = .external ∧
      ((∃ i, t = { s with ppuReq := .peek i }) ∨ ∃ i, t = { s with apuioReq := .peek i })) := by
  simp only [busPeek] at h
  split at h
  · simp_all
  · simp only [ppuPeek, Except.ok.injEq] at h
    split at h <;> simp_all
    exact .inr (.inl ⟨_, h.2.symm⟩)
  · simp only [apuIoPeek, Except.ok.injEq] at h
    split at h <;> simp_all
    exact .inr (.inr ⟨_, h.2.symm⟩)
  · simp_all
  · simp only [mapperResult] at h
    split at h <;> simp_all

/-- What a bus write can leave, with the cartridge the bus is built on loaded. -/
theorem busWrite_cases (c : Cart) (a : Addr) (v : Byte) (s : State) (hc : s.cart = some c) :
    busWrite c a v s = s ∨
    ((busDecode a).1 = .ram ∧
      busWrite c a v s = { s with ram := Memory.write s.ram (ramIndex (busDecode a).2) v }) ∨
    (s.params.devices = .external ∧
      ((∃ i, busWrite c a v s = { s with ppuReq := .write i v }) ∨
        ∃ i, busWrite c a v s = { s with apuioReq := .write i v })) := by
  simp only [busWrite]
  split
  · next h => exact .inr (.inl ⟨by simp [h], by simp [h]⟩)
  · simp only [ppuWrite]
    split
    · exact .inl rfl
    · next h => exact .inr (.inr ⟨h, .inl ⟨_, rfl⟩⟩)
  · simp only [apuIoWrite]
    split
    · exact .inl rfl
    · next h => exact .inr (.inr ⟨h, .inr ⟨_, rfl⟩⟩)
  · exact .inl rfl
  · refine .inl ?_
    rw [show Mapper.writePrg c a v = c from rfl, ← hc]

/-- Read and peek of the bus answer the same byte or the same error. -/
theorem busPeek_value (c : Cart) (a : Addr) (s : State) :
    (busPeek c a s).map Prod.fst = (busRead c a s).map Prod.fst := by
  simp only [busPeek, busRead]
  split <;> simp only [Except.map, ppuPeek, ppuRead, apuIoPeek, apuIoRead]
  · split <;> rfl
  · split <;> rfl
  · rw [show Mapper.peekPrg c a = Mapper.readPrg c a from rfl]

end Sys2Proof.Machine
end

