-- ==== Sys2Proof/Laws/Exec.lean ====
section
/-! SUPPORT. Said once: everything a command can do (`Effect`), every error it can raise (`Raises`), and what a step
does with its input. -/

namespace Sys2Proof.Machine

/-- No command faults or is refused. -/
theorem exec_next (i : Instr) (s : State) : ∃ t, exec i s = .next t := by
  cases i <;> exact ⟨_, rfl⟩

/-- A command that talks to the bus. -/
inductive OnBus (a : Addr) : Instr → Prop where
  | read : OnBus a (.busRead a)
  | peek : OnBus a (.busPeek a)
  | write (d : Byte) : OnBus a (.busWrite a d)

/-- A command that needs a cartridge (46_system.md R181, 60_exceptions.md R198). -/
inductive NeedsCart : Instr → Prop where
  | bus {i : Instr} (a : Addr) : OnBus a i → NeedsCart i
  | readPrg (a : Addr) : NeedsCart (.mapReadPrg a)
  | peekPrg (a : Addr) : NeedsCart (.mapPeekPrg a)
  | writePrg (a : Addr) (d : Byte) : NeedsCart (.mapWritePrg a d)
  | readChr (a : Addr) : NeedsCart (.mapReadChr a)
  | peekChr (a : Addr) : NeedsCart (.mapPeekChr a)
  | writeChr (a : Addr) (d : Byte) : NeedsCart (.mapWriteChr a d)
  | info (f : InfoField) : f ≠ .flags → NeedsCart (.cartInfo f)

/-- The errors a command can raise in a state, each with its reason. -/
inductive Raises (i : Instr) (s : State) : BlockError → Prop where
  | noCartridge : NeedsCart i → s.cart = none → Raises i s .noCartridge
  | outOfRange (a : Addr) : s.cart ≠ none → 0x8000 ≤ a.toNat →
      (i = .busRead a ∨ i = .busPeek a ∨ i = .mapReadPrg a ∨ i = .mapPeekPrg a) → Raises i s (.contentOutOfRange a)
  | chr (a : Addr) : s.cart ≠ none → (i = .mapReadChr a ∨ i = .mapPeekChr a ∨ ∃ d, i = .mapWriteChr a d) →
      Raises i s (.chrNotSupported a)
  | noInterrupt : i = .vecResolve 0 → Raises i s .noInterruptPending
  | load (e : BlockError) : i = .cartLoad → loadImage s.params s.ports.img = .error e → Raises i s e

/-- Everything a command can do: the states it can end in. -/
inductive Effect (i : Instr) (s : State) : State → Prop where
  | raise (e : BlockError) : Raises i s e → Effect i s (s.raise e)
  | answer (d : BitVec 16) : Effect i s (s.respond d)
  | ppu (a : Addr) (q : PortRequest 3) (d : BitVec 16) : OnBus a i → s.params.devices = .external →
      Effect i s ({ s with ppuReq := q }.respond d)
  | apuIo (a : Addr) (q : PortRequest 5) (d : BitVec 16) : OnBus a i → s.params.devices = .external →
      Effect i s ({ s with apuioReq := q }.respond d)
  | store (a : Addr) (v : Byte) : i = .busWrite a v → s.cart ≠ none → (busDecode a).1 = .ram →
      Effect i s ({ s with ram := Memory.write s.ram (ramIndex (busDecode a).2) v }.respond 0)
  | vidStep : i = .vidStep → Effect i s ({ s with vid := s.vid.step }.respond 0)
  | vidTake : i = .vidTake → Effect i s ({ s with vid := s.vid.clearFrameReady }.respond (bitResult s.vid.frameReady))
  | load (c : Cart) : i = .cartLoad → loadImage s.params s.ports.img = .ok c →
      Effect i s ({ s with cart := some c }.respond 0)
  | unload : i = .cartUnload → Effect i s ({ s with cart := none }.respond 0)

/-- A bus read that fails is out of range. -/
theorem busRead_error {c : Cart} {a : Addr} {s : State} {e : BlockError} (h : busRead c a s = .error e) :
    e = .contentOutOfRange a ∧ 0x8000 ≤ a.toNat := by
  simp only [busRead] at h
  split at h
  case h_5 =>
    cases hr : Mapper.readPrg c a with
    | ok v => simp [mapperResult, hr] at h
    | error e' =>
      simp only [mapperResult, hr, Except.error.injEq] at h
      exact h ▸ readPrg_error hr
  all_goals exact nomatch h

/-- A bus peek fails as the read does. -/
theorem busPeek_error {c : Cart} {a : Addr} {s : State} {e : BlockError} (h : busPeek c a s = .error e) :
    e = .contentOutOfRange a ∧ 0x8000 ≤ a.toNat := by
  have hv := busPeek_value c a s
  rw [h] at hv
  cases hr : busRead c a s with
  | ok v => simp [hr, Except.map] at hv
  | error e' =>
    simp only [hr, Except.map, Except.error.injEq] at hv
    exact hv ▸ busRead_error hr

/-- A PRG read of the mapper as a command's end. -/
theorem finishRead_prg {i : Instr} {s : State} {c : Cart} {a : Addr} (hc : s.cart = some c)
    (hi : i = .busRead a ∨ i = .busPeek a ∨ i = .mapReadPrg a ∨ i = .mapPeekPrg a) :
    Effect i s (s.finishRead (mapperResult (Mapper.readPrg c a) s)) := by
  cases hr : Mapper.readPrg c a with
  | ok v => exact .answer _
  | error e =>
    obtain ⟨rfl, h8⟩ := readPrg_error hr
    exact .raise _ (.outOfRange a (by simp [hc]) h8 hi)

/-- Every command has one of the effects. -/
theorem exec_effect (i : Instr) (s : State) : ∃ t, exec i s = .next t ∧ Effect i s t := by
  have needs : NeedsCart i → ∀ k : Cart → State, (∀ c, s.cart = some c → Effect i s (k c)) →
      Effect i s (s.withCart k) := by
    intro hn k h
    cases hc : s.cart with
    | none => rw [withCart_none hc]; exact .raise _ (.noCartridge hn hc)
    | some c => rw [withCart_some hc]; exact h c hc
  cases i with
  | busRead a =>
    refine ⟨_, rfl, needs (.bus a .read) _ fun c hc => ?_⟩
    cases hr : busRead c a s with
    | error e =>
      obtain ⟨rfl, h8⟩ := busRead_error hr
      exact .raise _ (.outOfRange a (by simp [hc]) h8 (.inl rfl))
    | ok r =>
      obtain ⟨v, t⟩ := r
      rcases busRead_ok hr with rfl | ⟨he, ⟨j, rfl⟩ | ⟨j, rfl⟩⟩
      · exact .answer _
      · exact .ppu a _ _ .read he
      · exact .apuIo a _ _ .read he
  | busPeek a =>
    refine ⟨_, rfl, needs (.bus a .peek) _ fun c hc => ?_⟩
    cases hr : busPeek c a s with
    | error e =>
      obtain ⟨rfl, h8⟩ := busPeek_error hr
      exact .raise _ (.outOfRange a (by simp [hc]) h8 (.inr (.inl rfl)))
    | ok r =>
      obtain ⟨v, t⟩ := r
      rcases busPeek_ok hr with rfl | ⟨he, ⟨j, rfl⟩ | ⟨j, rfl⟩⟩
      · exact .answer _
      · exact .ppu a _ _ .peek he
      · exact .apuIo a _ _ .peek he
  | busWrite a d =>
    refine ⟨_, rfl, needs (.bus a (.write d)) _ fun c hc => ?_⟩
    rcases busWrite_cases c a d s hc with h | ⟨hr, h⟩ | ⟨he, ⟨j, h⟩ | ⟨j, h⟩⟩ <;> rw [h]
    · exact .answer _
    · exact .store a d rfl (by simp [hc]) hr
    · exact .ppu a _ _ (.write d) he
    · exact .apuIo a _ _ (.write d) he
  | mapReadPrg a => exact ⟨_, rfl, needs (.readPrg a) _ fun c hc => finishRead_prg hc (.inr (.inr (.inl rfl)))⟩
  | mapPeekPrg a => exact ⟨_, rfl, needs (.peekPrg a) _ fun c hc => finishRead_prg hc (.inr (.inr (.inr rfl)))⟩
  | mapWritePrg a d =>
    refine ⟨_, rfl, needs (.writePrg a d) _ fun c hc => ?_⟩
    rw [show Mapper.writePrg c a d = c from rfl, ← hc]
    exact .answer 0
  | mapReadChr a => exact ⟨_, rfl, needs (.readChr a) _ fun c hc => .raise _ (.chr a (by simp [hc]) (.inl rfl))⟩
  | mapPeekChr a => exact ⟨_, rfl, needs (.peekChr a) _ fun c hc => .raise _ (.chr a (by simp [hc]) (.inr (.inl rfl)))⟩
  | mapWriteChr a d =>
    exact ⟨_, rfl, needs (.writeChr a d) _ fun c hc => .raise _ (.chr a (by simp [hc]) (.inr (.inr ⟨d, rfl⟩)))⟩
  | vecResolve m =>
    refine ⟨_, rfl, ?_⟩
    simp only [resolveVector]
    by_cases hm : m = 0
    · simp only [if_pos hm]
      exact .raise _ (.noInterrupt (by rw [hm]))
    · simp only [if_neg hm]
      cases PendingSet.reset m
      · cases PendingSet.nmi m <;> exact .answer _
      · exact .answer _
  | vidStep => exact ⟨_, rfl, .vidStep rfl⟩
  | vidTake => exact ⟨_, rfl, .vidTake rfl⟩
  | vidRddot => exact ⟨_, rfl, .answer _⟩
  | vidRdline => exact ⟨_, rfl, .answer _⟩
  | vidPeekfr => exact ⟨_, rfl, .answer _⟩
  | cartLoad =>
    refine ⟨_, rfl, ?_⟩
    cases hl : loadImage s.params s.ports.img with
    | error e => exact .raise e (.load e rfl hl)
    | ok c => exact .load c rfl hl
  | cartUnload => exact ⟨_, rfl, .unload rfl⟩
  | cartInfo f =>
    refine ⟨_, rfl, ?_⟩
    cases hc : s.cart with
    | some c => exact .answer _
    | none =>
      by_cases hf : f = .flags
      · simp only [hf, if_true]; exact .answer 0
      · simp only [hf, if_false]; exact .raise _ (.noCartridge (.info f hf) hc)
  | sysFaults => exact ⟨_, rfl, .answer _⟩

/-- What a command that answers a next state did. -/
theorem effect_of_exec {i : Instr} {s t : State} (h : exec i s = .next t) : Effect i s t := by
  obtain ⟨t', h', e⟩ := exec_effect i s
  rw [h', Host.Outcome.next.injEq] at h
  exact h ▸ e

@[simp] theorem exec_vidStep (s : State) : exec .vidStep s = .next ({ s with vid := s.vid.step }.respond 0) := rfl

@[simp] theorem exec_vidTake (s : State) : exec .vidTake s =
    .next ({ s with vid := s.vid.clearFrameReady }.respond (bitResult s.vid.frameReady)) := rfl

/-- A step on a waiting input whose word decodes. -/
theorem step_ok {s : State} {inp : Input} {rest : List Input} {i : Instr} (h : s.inputs = inp :: rest)
    (hd : decode inp.cmd = .ok i) : step s = exec i (s.accept inp rest) := by
  simp [step, h, hd]

/-- A step on a waiting input whose word is illegal. -/
theorem step_error {s : State} {inp : Input} {rest : List Input} {e : CommandFlaw} (h : s.inputs = inp :: rest)
    (hd : decode inp.cmd = .error e) : step s = illegalWord inp.cmd (s.accept inp rest) := by
  simp [step, h, hd]

/-- A step that answers a next state took an input, and ran its command or refused its word. -/
theorem step_cases {s t : State} (h : step s = .next t) :
    ∃ inp rest, s.inputs = inp :: rest ∧
      ((∃ i, decode inp.cmd = .ok i ∧ exec i (s.accept inp rest) = .next t) ∨
       (∃ e, decode inp.cmd = .error e ∧
        t = (s.accept inp rest).raise (.illegalCommand (inp.cmd.extractLsb' 16 16)))) := by
  cases hi : s.inputs with
  | nil => simp [step, hi] at h
  | cons inp rest =>
    refine ⟨inp, rest, rfl, ?_⟩
    cases hd : decode inp.cmd with
    | ok i => exact .inl ⟨i, rfl, by rw [← step_ok hi hd, h]⟩
    | error e =>
      rw [step_error hi hd, illegalWord] at h
      exact .inr ⟨e, rfl, by simpa using h.symm⟩

end Sys2Proof.Machine
end

