-- ==== Sys2Proof/Laws/PerInstr.lean ====
section
/-! SUPPORT. A family of statements, one lemma per command: the command's fields and its mnemonic are those of a row of
the opcode table. -/

namespace Sys2Proof.Laws.TableRow

/-- Some row of the opcode table has the command's mnemonic and, as its fixed bits, the command's UNIT and OP. -/
def Statement (i : Instr) : Prop :=
  ∃ r ∈ opcodeTable, r.mnemonic = i.mnemonic ∧ (fieldsOf r.value).unit = i.fields.unit ∧
    (fieldsOf r.value).op = i.fields.op

theorem busRead (a : Addr) : Statement (.busRead a) := ⟨⟨"BUS.READ", 0x00000000, 0xFF0000FF⟩, by decide, rfl, rfl, rfl⟩

theorem busPeek (a : Addr) : Statement (.busPeek a) := ⟨⟨"BUS.PEEK", 0x01000000, 0xFF0000FF⟩, by decide, rfl, rfl, rfl⟩

theorem busWrite (a : Addr) (d : Byte) : Statement (.busWrite a d) :=
  ⟨⟨"BUS.WRITE", 0x02000000, 0xFF000000⟩, by decide, rfl, rfl, rfl⟩

theorem mapReadPrg (a : Addr) : Statement (.mapReadPrg a) :=
  ⟨⟨"MAP.READPRG", 0x10000000, 0xFF0000FF⟩, by decide, rfl, rfl, rfl⟩

theorem mapPeekPrg (a : Addr) : Statement (.mapPeekPrg a) :=
  ⟨⟨"MAP.PEEKPRG", 0x11000000, 0xFF0000FF⟩, by decide, rfl, rfl, rfl⟩

theorem mapWritePrg (a : Addr) (d : Byte) : Statement (.mapWritePrg a d) :=
  ⟨⟨"MAP.WRITEPRG", 0x12000000, 0xFF000000⟩, by decide, rfl, rfl, rfl⟩

theorem mapReadChr (a : Addr) : Statement (.mapReadChr a) :=
  ⟨⟨"MAP.READCHR", 0x13000000, 0xFF0000FF⟩, by decide, rfl, rfl, rfl⟩

theorem mapPeekChr (a : Addr) : Statement (.mapPeekChr a) :=
  ⟨⟨"MAP.PEEKCHR", 0x14000000, 0xFF0000FF⟩, by decide, rfl, rfl, rfl⟩

theorem mapWriteChr (a : Addr) (d : Byte) : Statement (.mapWriteChr a d) :=
  ⟨⟨"MAP.WRITECHR", 0x15000000, 0xFF000000⟩, by decide, rfl, rfl, rfl⟩

theorem vecResolve (m : PendingSet) : Statement (.vecResolve m) :=
  ⟨⟨"VEC.RESOLVE", 0x20000000, 0xFFFFFFF0⟩, by decide, rfl, rfl, rfl⟩

theorem vidStep : Statement .vidStep := ⟨⟨"VID.STEP", 0x30000000, 0xFFFFFFFF⟩, by decide, rfl, rfl, rfl⟩

theorem vidTake : Statement .vidTake := ⟨⟨"VID.TAKE", 0x31000000, 0xFFFFFFFF⟩, by decide, rfl, rfl, rfl⟩

theorem vidRddot : Statement .vidRddot := ⟨⟨"VID.RDDOT", 0x32000000, 0xFFFFFFFF⟩, by decide, rfl, rfl, rfl⟩

theorem vidRdline : Statement .vidRdline := ⟨⟨"VID.RDLINE", 0x33000000, 0xFFFFFFFF⟩, by decide, rfl, rfl, rfl⟩

theorem vidPeekfr : Statement .vidPeekfr := ⟨⟨"VID.PEEKFR", 0x34000000, 0xFFFFFFFF⟩, by decide, rfl, rfl, rfl⟩

theorem cartLoad : Statement .cartLoad := ⟨⟨"CART.LOAD", 0x40000000, 0xFFFFFFFF⟩, by decide, rfl, rfl, rfl⟩

theorem cartUnload : Statement .cartUnload := ⟨⟨"CART.UNLOAD", 0x41000000, 0xFFFFFFFF⟩, by decide, rfl, rfl, rfl⟩

theorem cartInfo (f : InfoField) : Statement (.cartInfo f) :=
  ⟨⟨"CART.INFO", 0x42000000, 0xFFFFFFFC⟩, by decide, rfl, rfl, rfl⟩

theorem sysFaults : Statement .sysFaults := ⟨⟨"SYS.FAULTS", 0x50000000, 0xFFFFFFFF⟩, by decide, rfl, rfl, rfl⟩

end Sys2Proof.Laws.TableRow
end

