-- ==== Sys2Proof/Laws/Vid.lean ====
section
/-! SUPPORT. The video counters as numbers. -/

namespace Sys2Proof.Machine

/-- Nine bits of dot: the test of the wrap as a number. -/
theorem dot_wraps_iff (d : BitVec 9) : d + 1 = 341 ↔ d.toNat = 340 := by
  rw [← BitVec.toNat_inj, BitVec.toNat_add]
  have := d.isLt
  have e : (1 : BitVec 9).toNat = 1 ∧ (341 : BitVec 9).toNat = 341 := by decide
  rw [e.1, e.2]
  omega

/-- Ten signed bits of scanline: the test of the wrap as a number. -/
theorem line_wraps_iff (l : BitVec 10) : l + 1 = 261 ↔ l.toInt = 260 := by
  have e : l.toInt = 260 ↔ l = 260 := by
    rw [← BitVec.toInt_inj]
    exact Iff.rfl
  rw [e]
  constructor
  · intro h
    have := congrArg (· - 1) h
    simpa using this
  · rintro rfl
    decide

/-- Below 340 a step moves the dot. -/
theorem step_of_dot_lt {v : Vid} (h : v.dot.toNat ≠ 340) : v.step = { v with dot := v.dot + 1 } := by
  rw [Vid.step, if_neg (mt (dot_wraps_iff _).1 h)]

/-- At dot 340 of a line but the last a step begins the next line. -/
theorem step_of_line_lt {v : Vid} (h : v.dot.toNat = 340) (h' : v.scanline.toInt ≠ 260) :
    v.step = { v with dot := 0, scanline := v.scanline + 1 } := by
  rw [Vid.step, if_pos ((dot_wraps_iff _).2 h), if_neg (mt (line_wraps_iff _).1 h')]

/-- At the last dot of the last line a step wraps the frame. -/
theorem step_of_wrap {v : Vid} (h : v.dot.toNat = 340) (h' : v.scanline.toInt = 260) :
    v.step = { dot := 0, scanline := -1, frameReady := true } := by
  rw [Vid.step, if_pos ((dot_wraps_iff _).2 h), if_pos ((line_wraps_iff _).2 h'), Vid.setFrameReady]

/-- Adding one to a dot below its top. -/
theorem toNat_dot_succ {d : BitVec 9} (h : d.toNat < 341) : (d + 1).toNat = d.toNat + 1 := by
  rw [BitVec.toNat_add]
  have e : (1 : BitVec 9).toNat = 1 := by decide
  rw [e]
  omega

/-- Adding one to a scanline below its top. -/
theorem toInt_line_succ {l : BitVec 10} (h1 : -1 ≤ l.toInt) (h2 : l.toInt < 261) : (l + 1).toInt = l.toInt + 1 := by
  rw [BitVec.toInt_add]
  have e : (1 : BitVec 10).toInt = 1 := by decide
  rw [e]
  simp only [Int.bmod]
  omega

/-- A step keeps the counters in their ranges. -/
theorem inRange_step {v : Vid} (h : v.inRange) : v.step.inRange := by
  obtain ⟨h1, h2, h3⟩ := h
  by_cases hd : v.dot.toNat = 340
  · by_cases hl : v.scanline.toInt = 260
    · rw [step_of_wrap hd hl]
      decide
    · rw [step_of_line_lt hd hl]
      have := toInt_line_succ h2 (show v.scanline.toInt < 261 by omega)
      exact ⟨Nat.zero_le _, by dsimp only; omega, by dsimp only; omega⟩
  · rw [step_of_dot_lt hd]
    have := toNat_dot_succ (show v.dot.toNat < 341 by omega)
    exact ⟨by dsimp only; omega, h2, h3⟩

end Sys2Proof.Machine
end

