-- ==== Sys2Proof/Tests/Slice0.lean ====
section
/-! SUPPORT. Tests on fixed values, each expected value from 95_test_vectors.md (the row is named) or from the rule
named; and, for every statement with hypotheses, a witness that meets them together. -/

open Sys2Proof Sys2Proof.Machine

namespace Sys2Proof.Tests

/-! Helpers -/

/-- `s` with one input waiting: the word, the image, and the device answers 0xAB (PPU) and 0xCD (APU/IO). -/
def given (s : State) (w : Word) (img : List Byte := []) : State :=
  { s with inputs := [⟨w, img, 0xAB, 0xCD⟩] }

/-- The state an outcome goes on in. -/
def nextState : Host.Outcome State Fault Refusal → Option State
  | .next t => some t
  | .fault _ => none
  | .refused _ => none

/-- The response to one word. -/
def reply (s : State) (w : Word) (img : List Byte := []) : Option Response :=
  (nextState (step (given s w img))).bind (·.rsp)

/-- One part of the state after one word. -/
def after {α : Type} (s : State) (w : Word) (part : State → α) (img : List Byte := []) : Option α :=
  (nextState (step (given s w img))).map part

/-- A header with the default magic and no CHR bank. -/
def head (prg b6 b7 : Byte) : List Byte := [0x4E, 0x45, 0x53, 0x1A, prg, 0, b6, b7, 0, 0, 0, 0, 0, 0, 0, 0]

/-- An image with such a header. -/
def image (prg b6 b7 : Byte) (body : List Byte) : List Byte := head prg b6 b7 ++ body

/-- A cartridge with such a header, as FixedBank makes it. -/
def cartOf (prg b6 b7 : Byte) (body : List Byte) : Cart :=
  fixedBankInit (headerOf (head prg b6 b7)) (image prg b6 b7 body)

/-- Image I5: a header that declares one PRG bank, and nothing after it. -/
def cartI5 : Cart := cartOf 1 0 0 []

/-- I5 loaded, null devices. -/
def loaded : State := { State.reset with cart := some cartI5 }

/-- I5 loaded, external devices. -/
def external : State := { loaded with params := { Config.defaults with devices := .external } }

/-- One whole PRG bank of 0xEA loaded, as in I1 without its vectors. -/
def oneBank : State := { State.reset with cart := some (cartOf 1 0 0 (List.replicate 0x4000 0xEA)) }

/-- I2's body: PRG bank 0 all 0x11, PRG bank 1 all 0x22. -/
def bodyI2 : List Byte := List.replicate 0x4000 0x11 ++ List.replicate 0x4000 0x22

/-- I2 loaded. -/
def twoBanks : State := { State.reset with cart := some (cartOf 2 0 0 bodyI2) }

theorem length_image (prg b6 b7 : Byte) (body : List Byte) : (image prg b6 b7 body).length = 16 + body.length := by
  rw [image, List.length_append]
  rfl

theorem length_bodyI2 : bodyI2.length = 0x4000 + 0x4000 := by
  rw [bodyI2, List.length_append, List.length_replicate, List.length_replicate]

/-- The bytes after the header are the body. -/
theorem getD_image (prg b6 b7 : Byte) (body : List Byte) (n : Nat) :
    (image prg b6 b7 body).getD (n + 16) 0 = body.getD n 0 := rfl

/-- The first sixteen bytes of such an image are its header. -/
theorem take_image (prg b6 b7 : Byte) (body : List Byte) : (image prg b6 b7 body).take 16 = head prg b6 b7 := rfl

/-- Images of one and of two PRG banks, mapper id 0, load under the default parameters. -/
theorem load_oneBank (body : List Byte) : loadImage Config.defaults (image 1 0 0 body) = .ok (cartOf 1 0 0 body) := by
  rw [loadImage, headerSize, take_image]
  rfl
theorem load_twoBanks (body : List Byte) : loadImage Config.defaults (image 2 0 0 body) = .ok (cartOf 2 0 0 body) := by
  rw [loadImage, headerSize, take_image]
  rfl

/-- MAP.READPRG of an address whose bank is wholly there. -/
theorem mapReadPrg_eq {s : State} {c : Cart} {a : Addr} {b : Byte} (hc : s.cart = some c) (ha : 0x8000 ≤ a.toNat)
    (h1 : fixedBankStart c a + 0x4000 ≤ c.lowStart + c.hdr.prgBankCount.toNat * 0x4000)
    (h2 : fixedBankStart c a + 0x4000 ≤ c.content.length)
    (hb : c.content.getD (fixedBankStart c a + a.toNat % 0x4000) 0 = b) :
    exec (.mapReadPrg a) s = .next (s.respond (zext16 b)) := by
  show Host.Outcome.next _ = _
  rw [withCart_some hc, readPrg_inRange ha h1 h2, hb]
  rfl

/-! Decoding: words written out bit by bit (UNIT, OP, A, D) from the map of 30_encoding.md R73. -/

theorem test_decode_busRead : decode 0b0000_0000_0000011111111111_00000000 = .ok (.busRead 0x07FF) := by decide
theorem test_decode_busPeek : decode 0b0000_0001_0000111111111111_00000000 = .ok (.busPeek 0x0FFF) := by decide
theorem test_decode_busWrite : decode 0b0000_0010_0001111111111111_10011001 = .ok (.busWrite 0x1FFF 0x99) := by decide
theorem test_decode_mapReadPrg : decode 0b0001_0000_1011111111111111_00000000 = .ok (.mapReadPrg 0xBFFF) := by decide
theorem test_decode_mapPeekPrg : decode 0b0001_0001_1111111111111111_00000000 = .ok (.mapPeekPrg 0xFFFF) := by decide
theorem test_decode_mapWritePrg : decode 0b0001_0010_1000000000000000_00000001 = .ok (.mapWritePrg 0x8000 1) := by
  decide
theorem test_decode_mapReadChr : decode 0b0001_0011_0000000000000001_00000000 = .ok (.mapReadChr 1) := by decide
theorem test_decode_mapPeekChr : decode 0b0001_0100_0001111111111111_00000000 = .ok (.mapPeekChr 0x1FFF) := by decide
theorem test_decode_mapWriteChr : decode 0b0001_0101_0000000000010000_11111111 = .ok (.mapWriteChr 0x10 0xFF) := by
  decide
theorem test_decode_vecResolve : decode 0b0010_0000_0000000000000000_00001100 = .ok (.vecResolve 0xC) := by decide
theorem test_decode_vidStep : decode 0b0011_0000_0000000000000000_00000000 = .ok .vidStep := by decide
theorem test_decode_vidTake : decode 0b0011_0001_0000000000000000_00000000 = .ok .vidTake := by decide
theorem test_decode_vidRddot : decode 0b0011_0010_0000000000000000_00000000 = .ok .vidRddot := by decide
theorem test_decode_vidRdline : decode 0b0011_0011_0000000000000000_00000000 = .ok .vidRdline := by decide
theorem test_decode_vidPeekfr : decode 0b0011_0100_0000000000000000_00000000 = .ok .vidPeekfr := by decide
theorem test_decode_cartLoad : decode 0b0100_0000_0000000000000000_00000000 = .ok .cartLoad := by decide
theorem test_decode_cartUnload : decode 0b0100_0001_0000000000000000_00000000 = .ok .cartUnload := by decide
theorem test_decode_cartInfo : decode 0b0100_0010_0000000000000000_00000011 = .ok (.cartInfo .mapperId) := by decide
theorem test_decode_sysFaults : decode 0b0101_0000_0000000000000000_00000000 = .ok .sysFaults := by decide

/-- R79: the first and last reserved UNIT, the first reserved OP of each unit, and must-be-zero bits. -/
theorem test_decode_illegal :
    decode 0x60000000 = .error .reservedUnit ∧ decode 0xF0000000 = .error .reservedUnit ∧
    decode 0x03000000 = .error .reservedOp ∧ decode 0x16000000 = .error .reservedOp ∧
    decode 0x21000000 = .error .reservedOp ∧ decode 0x35000000 = .error .reservedOp ∧
    decode 0x43000000 = .error .reservedOp ∧ decode 0x51000000 = .error .reservedOp ∧
    decode 0x00800001 = .error .nonzeroField ∧ decode 0x20000010 = .error .nonzeroField ∧
    decode 0x42000004 = .error .nonzeroField ∧ decode 0x30000100 = .error .nonzeroField := by decide

/-- spec/opcode_table.json numbers the bits of a 32-bit word as R71 does. -/
theorem test_decodeTableWord :
    decodeTableWord 32 0x021FFF99 = some (.busWrite 0x1FFF 0x99) ∧ decodeTableWord 32 0x60000000 = none := by decide

/-! Well-formedness: each check alone refuses a term that meets the others. -/

theorem test_wf_unitKnown :
    (Fields.mk 6 0 0 0).wf = false ∧ (Fields.mk 6 0 0 0).unitKnown = false ∧
    (Fields.mk 6 0 0 0).addressZeroed = true ∧ (Fields.mk 6 0 0 0).dataZeroed = true := by decide
theorem test_wf_opKnown :
    (Fields.mk 0 3 0 0).wf = false ∧ (Fields.mk 0 3 0 0).opKnown = false ∧ (Fields.mk 0 3 0 0).unitKnown = true ∧
    (Fields.mk 0 3 0 0).dataZeroed = true := by decide
theorem test_wf_addressZeroed :
    (Fields.mk 2 0 1 0).wf = false ∧ (Fields.mk 2 0 1 0).addressZeroed = false ∧ (Fields.mk 2 0 1 0).opKnown = true ∧
    (Fields.mk 2 0 1 0).dataZeroed = true := by decide
theorem test_wf_dataZeroed :
    (Fields.mk 4 2 0 4).wf = false ∧ (Fields.mk 4 2 0 4).dataZeroed = false ∧ (Fields.mk 4 2 0 4).opKnown = true ∧
    (Fields.mk 4 2 0 4).addressZeroed = true := by decide
theorem test_wf_line : (Line.vecFetch 0).wf = false ∧ (Line.vecFetch 8).wf = true := by decide
theorem test_wf_params :
    { Config.defaults with registry := List.replicate 257 none }.wf = false ∧ Config.defaults.wf = true :=
  ⟨by rw [Config.Params.wf, List.length_replicate]; rfl, by decide⟩

/-! BUS -/

/-- B2. -/
theorem test_busRead_mirror :
    reply { loaded with ram := [(0x7FF, 0x99)] } 0x0007FF00 = some ⟨.ok, 0x0099⟩ := by decide
/-- D8 with external devices: PPU READ index 0, and the device's byte. -/
theorem test_busRead_ppu :
    reply external 0x00200800 = some ⟨.ok, 0x00AB⟩ ∧ after external 0x00200800 (·.ppuReq) = some (.read 0) := by decide
/-- D11 as a peek: APU/IO PEEK offset 0x17. -/
theorem test_busPeek_apuIo :
    reply external 0x01401700 = some ⟨.ok, 0x00CD⟩ ∧ after external 0x01401700 (·.apuioReq) = some (.peek 0x17) := by
  decide
/-- B11. -/
theorem test_busPeek_outOfRange :
    reply loaded 0x01FFFF00 = some ⟨.contentOutOfRange, 0xFFFF⟩ ∧
    after loaded 0x01FFFF00 (·.faults) = some 0x0040 := by decide
/-- B1. -/
theorem test_busWrite_ram : after loaded 0x021FFF99 (·.ram) = some [(0x7FF, 0x99)] := by decide
/-- B7 with external devices. -/
theorem test_busWrite_ppu : after external 0x0220063F (·.ppuReq) = some (.write 6 0x3F) := by decide

/-! MAP -/

/-- M1: the low bank of I2. -/
theorem test_mapReadPrg_low : exec (.mapReadPrg 0x8000) twoBanks = .next (twoBanks.respond 0x0011) :=
  mapReadPrg_eq (b := 0x11) rfl (by decide) (by decide)
    (by rw [show (cartOf 2 0 0 bodyI2).content = image 2 0 0 bodyI2 from rfl, length_image, length_bodyI2]; decide)
    (getD_image 2 0 0 bodyI2 0)

/-- M3: the high bank of I2. -/
theorem test_mapReadPrg_high : exec (.mapReadPrg 0xC000) twoBanks = .next (twoBanks.respond 0x0022) :=
  mapReadPrg_eq (b := 0x22) rfl (by decide) (by decide)
    (by rw [show (cartOf 2 0 0 bodyI2).content = image 2 0 0 bodyI2 from rfl, length_image, length_bodyI2]; decide)
    ((getD_image 2 0 0 bodyI2 0x4000).trans (by
      rw [bodyI2, List.getD_append_right _ _ _ _ (by rw [List.length_replicate]), List.length_replicate]
      rfl))

/-- M12's shape: a peek of a bank that is not there. -/
theorem test_mapPeekPrg_outOfRange : reply loaded 0x11C00000 = some ⟨.contentOutOfRange, 0xC000⟩ := by decide
/-- M8: below the window a MAP read is open bus, and RAM is not reached. -/
theorem test_mapReadPrg_below :
    exec (.mapReadPrg 0) loaded = .next (loaded.respond ((Config.openBus 0).setWidth 16)) := rfl
/-- M13, R127: no effect, also where the bank is not there. -/
theorem test_mapWritePrg :
    reply loaded 0x12800001 = some ⟨.ok, 0⟩ ∧ after loaded 0x12800001 (·.cart) = some (some cartI5) := by decide
/-- M14. -/
theorem test_mapReadChr :
    reply loaded 0x13000000 = some ⟨.chrNotSupported, 0⟩ ∧ after loaded 0x13000000 (·.faults) = some 0x0020 := by decide
/-- M15. -/
theorem test_mapPeekChr : reply loaded 0x141FFF00 = some ⟨.chrNotSupported, 0x1FFF⟩ := by decide
/-- M16. -/
theorem test_mapWriteChr : reply loaded 0x150010FF = some ⟨.chrNotSupported, 0x0010⟩ := by decide
/-- M19: NoCartridge comes first. -/
theorem test_mapReadChr_noCartridge :
    reply .reset 0x13000000 = some ⟨.noCartridge, 0⟩ ∧ after .reset 0x13000000 (·.faults) = some 0x0080 := by decide

/-! VEC -/

/-- E4: Reset before NMI, and the empty set. -/
theorem test_vecResolve_priority : reply .reset 0x20000003 = some ⟨.ok, 0xFFFC⟩ := by decide
theorem test_vecResolve_empty :
    reply .reset 0x20000000 = some ⟨.noInterruptPending, 0⟩ ∧ after .reset 0x20000000 (·.faults) = some 0x0010 := by
  decide

/-! VID (rules R161–R166) -/

/-- The frame wrap, from (340, 260). -/
theorem test_vidStep_wrap :
    after { State.reset with vid := ⟨340, 260, false⟩ } 0x30000000 (·.vid) = some ⟨0, -1, true⟩ := by decide
/-- The end of a line, from (340, -1). -/
theorem test_vidStep_line :
    after { State.reset with vid := ⟨340, -1, false⟩ } 0x30000000 (·.vid) = some ⟨0, 0, false⟩ := by decide
theorem test_vidTake :
    reply { State.reset with vid := ⟨7, 9, true⟩ } 0x31000000 = some ⟨.ok, 1⟩ ∧
    after { State.reset with vid := ⟨7, 9, true⟩ } 0x31000000 (·.vid) = some ⟨7, 9, false⟩ := by decide
theorem test_vidRddot : reply { State.reset with vid := ⟨340, 260, true⟩ } 0x32000000 = some ⟨.ok, 340⟩ := by decide
/-- E5: scanline -1 reads 0xFFFF. -/
theorem test_vidRdline : reply .reset 0x33000000 = some ⟨.ok, 0xFFFF⟩ := by decide
theorem test_vidPeekfr :
    reply { State.reset with vid := ⟨0, -1, true⟩ } 0x34000000 = some ⟨.ok, 1⟩ ∧
    after { State.reset with vid := ⟨0, -1, true⟩ } 0x34000000 (·.vid.frameReady) = some true := by decide

/-! CART -/

/-- I7's header: mirroring 1, trainer 0, mapper id 0 in spite of the unnamed bits of bytes 6 and 7. -/
theorem test_cartLoad_header :
    after .reset 0x40000000 (·.cart.map (·.hdr)) (image 1 0x0B 0x0F []) = some (some ⟨1, 0, 0, false, true⟩) := by decide
/-- C9: mapper 99 does not load, the cartridge stays, FAULTS stays. -/
theorem test_cartLoad_unsupported :
    reply loaded 0x40000000 (image 1 0x30 0x60 []) = some ⟨.unsupportedMapper, 0x0063⟩ ∧
    after loaded 0x40000000 (fun s => (s.cart, s.faults)) (image 1 0x30 0x60 []) = some (some cartI5, 0) := by decide
/-- C14. -/
theorem test_cartUnload : reply loaded 0x41000000 = some ⟨.ok, 0⟩ ∧ after loaded 0x41000000 (·.cart) = some none := by
  decide
/-- C7 and C8: trainer reads 0x0003, mirroring 0x0005. -/
theorem test_cartInfo_flags :
    reply { State.reset with cart := some (cartOf 1 4 0 []) } 0x42000000 = some ⟨.ok, 0x0003⟩ ∧
    reply { State.reset with cart := some (cartOf 1 1 0 []) } 0x42000000 = some ⟨.ok, 0x0005⟩ := by decide
/-- C16 and C17. -/
theorem test_cartInfo_empty :
    reply .reset 0x42000000 = some ⟨.ok, 0⟩ ∧ reply .reset 0x42000003 = some ⟨.noCartridge, 0⟩ := by decide

/-! SYS -/

/-- R182 with the hardwired bits of R31. -/
theorem test_sysFaults : reply { State.reset with faults := 0xFFFF } 0x50000000 = some ⟨.ok, 0x01F8⟩ := by decide
/-- R183: the illegal word's upper half is its recorded value. -/
theorem test_illegal :
    reply .reset 0x60001234 = some ⟨.illegalCommand, 0x6000⟩ ∧ after .reset 0x60001234 (·.faults) = some 0x0100 := by
  decide
/-- The host's way in: the word stands as the next command. -/
theorem test_withFetchWord :
    (nextState (step (State.reset.withFetchWord 32 0x20000001))).bind (·.rsp) = some ⟨.ok, 0xFFFC⟩ := by decide

/-! The assembler (30_encoding.md R92–R97) -/

theorem test_asm_write :
    assembleLine Config.defaults "BUS.WRITE $1FFF, #$99 ; B1".toList = .ok [.busWrite 0x1FFF 0x99] := by decide
/-- A pending set in braces, characters 123 and 125. -/
theorem test_asm_set :
    assembleLine Config.defaults
      ("VEC.FETCH ".toList ++ [Char.ofNat 123] ++ "NMI, RESET".toList ++ [Char.ofNat 125]) =
      .ok [.vecResolve 3, .busRead 0xFFFC, .busRead 0xFFFD] := by decide
theorem test_asm_stepN :
    assembleLine Config.defaults "VID.STEPN 2".toList = .ok [.vidStep, .vidStep] ∧
    assembleLine Config.defaults "CART.INFO #3".toList = .ok [.cartInfo .mapperId] ∧
    assembleLine Config.defaults "VEC.RESOLVE #$C".toList = .ok [.vecResolve 12] := by decide
/-- R97: an unreadable line is an error; a source named twice is one. -/
theorem test_asm_errors :
    assembleLine Config.defaults "BUS.READ #$12".toList = .error .unreadable ∧
    assembleLine Config.defaults "VID.STEPS".toList = .error .unreadable ∧
    assembleLine Config.defaults
      ("VEC.RESOLVE ".toList ++ [Char.ofNat 123] ++ "NMI, NMI".toList ++ [Char.ofNat 125]) = .error .unreadable := by
  decide

/-! Witnesses: for each statement with hypotheses, values that meet them together. -/

theorem witness_DecoderAgreesWithTheOpcodeTable :
    decode 0x2000000F = .ok (.vecResolve 0xF) ∧
    ∃ r ∈ opcodeTable, r.covers 0x2000000F = true ∧ r.mnemonic = "VEC.RESOLVE" := by decide

/-- The must-be-zero alternatives of the illegal words, each at a boundary; the reserved ones are in
`test_decode_illegal`. -/
theorem witness_ReservedEncodingsAreExactlyTheIllegalWords :
    decode 0x00000001 = .error .nonzeroField ∧ decode 0x10000001 = .error .nonzeroField ∧
    decode 0x20000010 = .error .nonzeroField ∧ decode 0x20000100 = .error .nonzeroField ∧
    decode 0x30000001 = .error .nonzeroField ∧ decode 0x40000100 = .error .nonzeroField ∧
    decode 0x42000004 = .error .nonzeroField ∧ decode 0x50000001 = .error .nonzeroField ∧
    (given .reset 0x60000000).inputs = [⟨0x60000000, [], 0xAB, 0xCD⟩] := by decide

theorem witness_StepRunsTheDecodedCommand :
    (given loaded 0x01401700).inputs = [⟨0x01401700, [], 0xAB, 0xCD⟩] ∧ decode 0x01401700 = .ok (.busPeek 0x4017) ∧
    State.reset.inputs = [] := by decide

theorem witness_IllegalWordEndsWithIllegalCommand :
    (given loaded 0x00800001).inputs = [⟨0x00800001, [], 0xAB, 0xCD⟩] ∧
    decode 0x00800001 = .error .nonzeroField := by decide

theorem witness_EveryStepEndsWithAResponse :
    (given loaded 0x00800001).inputs = ⟨0x00800001, [], 0xAB, 0xCD⟩ :: [] := rfl

/-- Both ends of each of the five ranges. -/
theorem witness_AddressDecodeIsTheTable :
    (∀ a ∈ ([0x0000, 0x1FFF] : List Addr), a.toNat ≤ 0x1FFF) ∧
    (∀ a ∈ ([0x2000, 0x3FFF] : List Addr), 0x2000 ≤ a.toNat ∧ a.toNat ≤ 0x3FFF) ∧
    (∀ a ∈ ([0x4000, 0x4017] : List Addr), 0x4000 ≤ a.toNat ∧ a.toNat ≤ 0x4017) ∧
    (∀ a ∈ ([0x4018, 0x401F] : List Addr), 0x4018 ≤ a.toNat ∧ a.toNat ≤ 0x401F) ∧
    (∀ a ∈ ([0x4020, 0xFFFF] : List Addr), 0x4020 ≤ a.toNat) := by simp

/-- Both ends of each range, both kinds of devices, a bank that is there and one that is not. -/
theorem witness_BusReadResult :
    loaded.cart = some cartI5 ∧ loaded.params.devices = .null ∧ external.cart = some cartI5 ∧
    external.params.devices = .external ∧
    (∀ a ∈ ([0x4018, 0x7FFF] : List Addr), 0x4018 ≤ a.toNat ∧ a.toNat ≤ 0x7FFF) ∧
    (∀ a ∈ ([0x8000, 0xBFFF] : List Addr), 0x8000 ≤ a.toNat ∧ ¬ 0xC000 ≤ a.toNat) ∧
    (∀ a ∈ ([0xC000, 0xFFFF] : List Addr), 0x8000 ≤ a.toNat ∧ 0xC000 ≤ a.toNat) ∧
    cartI5.lowStart + 0x4000 > cartI5.content.length :=
  ⟨rfl, rfl, rfl, rfl, by simp, by simp, by simp, by decide⟩

theorem witness_BusReadResult_inRange : ∃ c : Cart, twoBanks.cart = some c ∧
    c.lowStart + 0x4000 ≤ c.lowStart + c.hdr.prgBankCount.toNat * 0x4000 ∧ c.lowStart + 0x4000 ≤ c.content.length ∧
    c.highStart + 0x4000 ≤ c.lowStart + c.hdr.prgBankCount.toNat * 0x4000 ∧ c.highStart + 0x4000 ≤ c.content.length := by
  have hl : (cartOf 2 0 0 bodyI2).content.length = 16 + (0x4000 + 0x4000) := by
    rw [show (cartOf 2 0 0 bodyI2).content = image 2 0 0 bodyI2 from rfl, length_image, length_bodyI2]
  exact ⟨cartOf 2 0 0 bodyI2, rfl, by decide, by rw [hl]; decide, by decide, by rw [hl]; decide⟩

/-- The hypotheses are those of BusReadResult and are met as there. -/
theorem witness_BusPeekResult :
    loaded.cart = some cartI5 ∧ external.cart = some cartI5 ∧ twoBanks.cart = some (cartOf 2 0 0 bodyI2) :=
  ⟨rfl, rfl, rfl⟩

/-- The ranges of BUS.WRITE at their ends; its other ranges are those of witness_BusReadResult. -/
theorem witness_BusWriteResult :
    loaded.cart = some cartI5 ∧ external.cart = some cartI5 ∧
    (∀ a ∈ ([0x4018, 0xFFFF] : List Addr), 0x4018 ≤ a.toNat) ∧
    (∀ a ∈ ([0x2000, 0x4017] : List Addr), 0x2000 ≤ a.toNat ∧ a.toNat ≤ 0x4017) :=
  ⟨rfl, rfl, by simp, by simp⟩

theorem witness_RamMirrorsNameOneByte :
    loaded.cart = some cartI5 ∧ (0x07FF : Addr).toNat < 0x2000 ∧ (0x1FFF : Addr).toNat < 0x2000 ∧
    (0x07FF : Addr).toNat % 0x800 = (0x1FFF : Addr).toNat % 0x800 := by decide

theorem witness_NoCartridgeCheckComesFirst : State.reset.cart = none ∧ InfoField.prgBankCount ≠ .flags := by decide

/-- The three cases of the MAP reads; the bank that is there is that of witness_BusReadResult_inRange. -/
theorem witness_MapPrgReadAndPeekResult :
    loaded.cart = some cartI5 ∧ (16 : Nat) = (if 0xC000 ≤ (0x7FFF : Addr).toNat then cartI5.highStart else cartI5.lowStart) ∧
    (0x7FFF : Addr).toNat < 0x8000 ∧ 0x8000 ≤ (0x8000 : Addr).toNat ∧ 16 + 0x4000 > cartI5.content.length := by decide

theorem witness_MapWritePrgHasNoEffect : loaded.cart = some cartI5 := rfl

theorem witness_ChrCommandsFailLoudly : loaded.cart = some cartI5 := rfl

theorem witness_OneBankImageIsMirrored :
    ∃ (img : List Byte) (c : Cart), oneBank.cart = some c ∧ loadImage oneBank.params img = .ok c ∧ c.hdr.prgBankCount = 1 ∧
      16 + (if c.hdr.hasTrainer then 512 else 0) + 0x4000 ≤ img.length ∧ 0x8000 ≤ (0x8000 : Addr).toNat := by
  refine ⟨image 1 0 0 (List.replicate 0x4000 0xEA), cartOf 1 0 0 (List.replicate 0x4000 0xEA), rfl, load_oneBank _, rfl,
    ?_, by decide⟩
  rw [length_image, List.length_replicate]
  exact Nat.le_refl _

theorem witness_TwoBankImageIsFlat :
    ∃ (img : List Byte) (c : Cart), twoBanks.cart = some c ∧ loadImage twoBanks.params img = .ok c ∧ 2 ≤ c.hdr.prgBankCount.toNat ∧
      16 = 16 + (if c.hdr.hasTrainer then 512 else 0) ∧ 16 + 0x4000 + 0x4000 ≤ img.length ∧
      (0xFFFF : Addr).toNat = 0x8000 + 0x7FFF := by
  refine ⟨image 2 0 0 bodyI2, cartOf 2 0 0 bodyI2, rfl, load_twoBanks _, by decide, rfl, ?_, by decide⟩
  rw [length_image, length_bodyI2]

/-- Two images that differ only past their second PRG bank. -/
theorem witness_OnlyTheFirstTwoBanksAreRead : ∃ img img' : List Byte, img ≠ img' ∧
    (∃ c, loadImage Config.defaults img = .ok c ∧ 16 = 16 + (if c.hdr.hasTrainer then 512 else 0)) ∧
    (∃ c', loadImage Config.defaults img' = .ok c') ∧ img.length = img'.length ∧ (∀ k < 16, img[k]? = img'[k]?) ∧
    (∀ k, 16 ≤ k → k < 16 + 0x8000 → img[k]? = img'[k]?) := by
  have split : ∀ x : Byte, image 2 0 0 (bodyI2 ++ [x]) = image 2 0 0 bodyI2 ++ [x] := fun x => rfl
  have hl : (image 2 0 0 bodyI2).length = 16 + 0x8000 := by rw [length_image, length_bodyI2]
  have same : ∀ k, k < 16 + 0x8000 → (image 2 0 0 (bodyI2 ++ [1]))[k]? = (image 2 0 0 (bodyI2 ++ [2]))[k]? := by
    intro k hk
    rw [split, split, List.getElem?_append_left (hl ▸ hk), List.getElem?_append_left (hl ▸ hk)]
  refine ⟨image 2 0 0 (bodyI2 ++ [1]), image 2 0 0 (bodyI2 ++ [2]), fun h => ?_, ⟨_, load_twoBanks _, rfl⟩,
    ⟨_, load_twoBanks _⟩, ?_, fun k hk => same k (by omega), fun k _ hk => same k hk⟩
  · rw [split, split, List.append_cancel_left_eq] at h
    exact absurd h (by decide)
  rw [split, split, List.length_append, List.length_append, List.length_singleton, List.length_singleton]

/-- A wrong length, a wrong magic in each of its bytes, and a right one. -/
theorem witness_HeaderParseFollowsTheLayout :
    ([] : List Byte).length ≠ 16 ∧ (head 1 0 0).length = 16 ∧
    (head 1 0 0).take 8 = [0x4E, 0x45, 0x53, 0x1A, 1, 0, 0, 0] ∧
    Config.defaults.headerMagic = ⟨0x4E, 0x45, 0x53, 0x1A⟩ ∧ (0x1B : Byte) ≠ Config.defaults.headerMagic.b3 := by decide

/-- I7's unnamed bits against none. -/
theorem witness_UnnamedHeaderBitsAreIgnored :
    (head 1 0x0B 0x0F).length = 16 ∧ (head 1 0x01 0x00).length = 16 ∧
    (head 1 0x0B 0x0F).take 6 = (head 1 0x01 0x00).take 6 ∧
    (head 1 0x0B 0x0F)[6]? = some 0x0B ∧ (head 1 0x01 0x00)[6]? = some 0x01 ∧ (0x0B : Byte) &&& 0xF5 = 0x01 &&& 0xF5 ∧
    (head 1 0x0B 0x0F)[7]? = some 0x0F ∧ (head 1 0x01 0x00)[7]? = some 0x00 ∧
    (0x0F : Byte) &&& 0xF0 = 0x00 &&& 0xF0 := by decide

/-- An image too short by one byte; one of 16 bytes with a wrong magic, one of mapper 99, one that loads. -/
theorem witness_CartLoadResult :
    ((head 1 0 0).take 15).length < 16 ∧ 16 ≤ (head 1 0x30 0x60).length ∧
    (head 1 0x30 0x60).take 8 = [0x4E, 0x45, 0x53, 0x1A, 1, 0, 0x30, 0x60] ∧
    (0x63 : Byte).toNat = (0x60 : Byte).toNat / 16 * 16 + (0x30 : Byte).toNat / 16 ∧
    registryLookup Config.defaults.registry 0x63 = none ∧ (0x1B : Byte) ≠ Config.defaults.headerMagic.b3 ∧
    (0x00 : Byte).toNat = (0x00 : Byte).toNat / 16 * 16 + (0x00 : Byte).toNat / 16 ∧
    registryLookup Config.defaults.registry 0x00 = some .fixedBank := by decide

theorem witness_CartInfoResult :
    State.reset.cart = none ∧ loaded.cart = some cartI5 ∧
    [InfoField.flags, .prgBankCount, .chrBankCount, .mapperId].map (fun f => f.index.toNat) = [0, 1, 2, 3] := by decide

/-- A mask for each case. -/
theorem witness_VecResolveResult :
    (0 : PendingSet).toNat = 0 ∧ (15 : PendingSet).toNat % 2 = 1 ∧ (14 : PendingSet).toNat % 4 = 2 ∧
    (12 : PendingSet).toNat % 4 = 0 ∧ (12 : PendingSet).toNat ≠ 0 := by decide

/-- A position for each case, at its edge. -/
theorem witness_VidStepResult :
    (Vid.mk 339 260 true).inRange ∧ (Vid.mk 339 260 true).dot.toNat < 340 ∧
    (Vid.mk 340 259 true).inRange ∧ (Vid.mk 340 259 true).dot.toNat = 340 ∧ (Vid.mk 340 259 true).scanline.toInt < 260 ∧
    (Vid.mk 340 260 true).inRange ∧ (Vid.mk 340 260 true).dot.toNat = 340 ∧
    (Vid.mk 340 260 true).scanline.toInt = 260 := by decide

theorem witness_VidReadoutResults :
    State.reset.vid.inRange ∧ (Vid.mk 340 260 true).inRange ∧ State.reset.vid.scanline.toInt = -1 := by decide

theorem witness_OnlyVidStepMovesTheCounters :
    exec (.vecResolve 1) .reset = .next (State.reset.respond 0xFFFC) ∧ Instr.vecResolve 1 ≠ .vidStep ∧
    State.reset.vid.inRange := ⟨rfl, by decide, by decide⟩

/-- Each kind of command: one that takes the flag, one that steps over the wrap, one that does neither. -/
theorem witness_FrameReadyIsStickyUntilTaken :
    (∃ t, exec .vidTake .reset = .next t) ∧ (∃ t, exec .vidStep .reset = .next t) ∧ State.reset.vid.inRange ∧
    (∃ t, exec .vidPeekfr .reset = .next t) ∧ Instr.vidPeekfr ≠ .vidTake ∧ Instr.vidPeekfr ≠ .vidStep :=
  ⟨⟨_, rfl⟩, ⟨_, rfl⟩, by decide, ⟨_, rfl⟩, by decide, by decide⟩

/-- The power-on position, and one in mid-frame. -/
theorem witness_OneFrameReturnsAndSetsReadyOnce :
    State.reset.vid.inRange ∧ State.reset.vid.frameReady = false ∧ State.reset.vid.dot.toNat = 0 ∧
    State.reset.vid.scanline.toInt = -1 ∧ (Vid.mk 17 100 false).inRange := by decide

theorem witness_SysFaultsResult :
    State.reset.reservedFaultsClear ∧ { State.reset with faults := 0x01F8 }.reservedFaultsClear := by decide

theorem witness_FaultLogIsSticky :
    ∃ t, step (given .reset 0x60000000) = .next t ∧ t.rsp = some ⟨.illegalCommand, 0x6000⟩ := ⟨_, rfl, rfl⟩

/-- A failing step of each class. -/
theorem witness_ErrorsArePrecise :
    (∃ t, step (given loaded 0x40000000 []) = .next t ∧ t.rsp = some ⟨.malformedHeader, 0⟩) ∧
    (∃ t, step (given loaded 0x00800000) = .next t ∧ t.rsp = some ⟨.contentOutOfRange, 0x8000⟩) :=
  ⟨⟨_, rfl, rfl⟩, ⟨_, rfl, rfl⟩⟩

/-- Each error that a decoded command raises. -/
theorem witness_EachStatusComesFromItsCommands :
    reply .reset 0x40000000 [] = some ⟨.malformedHeader, 0⟩ ∧
    reply .reset 0x40000000 (image 1 0x30 0x60 []) = some ⟨.unsupportedMapper, 0x63⟩ ∧
    reply .reset 0x20000000 = some ⟨.noInterruptPending, 0⟩ ∧
    reply loaded 0x13123400 = some ⟨.chrNotSupported, 0x1234⟩ ∧
    reply loaded 0x00FFFF00 = some ⟨.contentOutOfRange, 0xFFFF⟩ ∧
    reply .reset 0x00FFFF00 = some ⟨.noCartridge, 0⟩ ∧ reply .reset 0x15FFFF00 = some ⟨.noCartridge, 0⟩ ∧
    reply .reset 0x42000001 = some ⟨.noCartridge, 0⟩ ∧ reply .reset 0x42000003 = some ⟨.noCartridge, 0⟩ := by decide

/-- A state other than reset that meets the invariant, with a cartridge, RAM written and a frame begun, and its step. -/
def busy : State :=
  { loaded with ram := [(0x000, 0x42), (0x7FF, 0x24)], vid := ⟨340, 260, false⟩, faults := 0x0040 }

theorem witness_EveryStepKeepsTheInvariant : busy.Inv ∧ ∃ t, step (given busy 0x021FFF99) = .next t := by
  refine ⟨⟨by decide, by decide, by decide, ?_⟩, _, rfl⟩
  intro c hc
  have : c = cartI5 := by simpa [busy, loaded] using hc.symm
  subst this
  exact load_oneBank []

theorem witness_NoStepChangesAParameter : ∃ t, step (given external 0x021FFF99) = .next t := ⟨_, rfl⟩

/-- A command that leaves the slot, and a load that fails. -/
theorem witness_LoadedCartridgeIsImmutable :
    (∃ t, exec (.busWrite 0x8000 1) loaded = .next t) ∧ changesCart (.busWrite 0x8000 1) = false ∧
    (exec .cartLoad loaded = .next (loaded.raise (.malformedHeader .wrongLength))) ∧ loaded.ports.img = [] :=
  ⟨⟨_, rfl⟩, rfl, rfl, rfl⟩

theorem witness_RamHoldsTheLastStore :
    loaded.cart = some cartI5 ∧
    (∀ i ∈ [Instr.busWrite 0x0000 1, .vidStep, .busWrite 0x0800 2, .busRead 0x1000], changesCart i = false) ∧
    lastStoreToRam 0 [Instr.busWrite 0x0000 1, .vidStep, .busWrite 0x0800 2, .busRead 0x1000] = some 2 := by decide

theorem witness_AtMostOneDeviceRequest :
    (∃ t, step (given external 0x00200000) = .next t ∧ t.ppuReq ≠ .idle) ∧
    (∃ t, step (given loaded 0x00200000) = .next t) ∧ loaded.params.devices = .null :=
  ⟨⟨_, rfl, by exact nofun⟩, ⟨_, rfl⟩, rfl⟩

/-- Two states with the same VID and parameters that differ in all else. -/
theorem witness_TimingAndResolverIgnoreTheRest :
    let other : State := { loaded with ram := [(0, 1)], faults := 0x0008 }
    State.reset.vid = other.vid ∧ State.reset.params = other.params ∧ State.reset ≠ other := by decide

theorem witness_FrameOfReadingCommands :
    (∃ t, exec (.busRead 0x2000) external = .next t ∧ t.ppuReq ≠ external.ppuReq) ∧
    (∃ t, exec (.mapReadPrg 0x8000) loaded = .next t ∧ t.faults ≠ loaded.faults) :=
  ⟨⟨_, rfl, by decide⟩, ⟨_, rfl, by decide⟩⟩

theorem witness_FrameOfWritingCommands :
    ∃ t, exec (.busWrite 0x1FFF 0x99) loaded = .next t ∧ loaded.cart ≠ none ∧ (busDecode 0x1FFF).1 = .ram ∧
      ramIndex (busDecode 0x1FFF).2 = 0x7FF := ⟨_, rfl, by exact nofun, by decide, by decide⟩

theorem witness_FrameOfTimingAndCartCommands :
    (∃ t, exec .vidTake busy = .next t) ∧ ∃ t, exec .cartUnload busy = .next t := ⟨⟨_, rfl⟩, ⟨_, rfl⟩⟩

theorem witness_RegisteringAnIdTwiceIsRefused :
    registryLookup Config.defaults.registry 0xFF = none ∧ (0xFE : Byte) ≠ 0xFF ∧ (0x01 : Byte).toNat ≠ 0 := by decide

theorem witness_PseudoInstructionsExpand : (1 : PendingSet) ≠ 0 ∧ resolveVector Config.defaults 1 = .ok 0xFFFC := by
  decide

theorem witness_VecFetchReadsTheEntryPoint :
    ∃ (img : List Byte) (c : Cart), oneBank.params = Config.defaults ∧ oneBank.cart = some c ∧ loadImage oneBank.params img = .ok c ∧
      c.hdr.prgBankCount = 1 ∧ 16 = 16 + (if c.hdr.hasTrainer then 512 else 0) ∧ 16 + 0x4000 ≤ img.length ∧
      resolveVector oneBank.params 4 = .ok 0xFFFE := by
  refine ⟨image 1 0 0 (List.replicate 0x4000 0xEA), cartOf 1 0 0 (List.replicate 0x4000 0xEA), rfl, rfl,
    load_oneBank _, rfl, rfl, ?_, by decide⟩
  rw [length_image, List.length_replicate]

end Sys2Proof.Tests
end

section
/-! SUPPORT. Families of facts over `Effect`, one case an effect: what a command leaves in the parameters, VID, the slot
and the fault log; and that every update an effect is made of keeps the invariant. -/

namespace Sys2Proof.Machine

/-! What an effect leaves -/

/-- A command that neither steps nor takes leaves VID as it is. -/
theorem Effect.vid_eq {i : Instr} {s t : State} (e : Effect i s t) (hs : i ≠ .vidStep) (ht : i ≠ .vidTake) :
    t.vid = s.vid := by
  cases e with
  | vidStep hi => exact absurd hi hs
  | vidTake hi => exact absurd hi ht
  | _ => rfl

/-- The slot changes only in a command that loads or unloads, and only when that command ends with OK. -/
theorem Effect.cart_cases {i : Instr} {s t : State} (e : Effect i s t) :
    t.cart = s.cart ∨ (changesCart i = true ∧ t.rsp = some ⟨.ok, 0⟩) := by
  cases e with
  | load c hi _ => exact .inr ⟨by rw [hi]; rfl, rfl⟩
  | unload hi => exact .inr ⟨by rw [hi]; rfl, rfl⟩
  | _ => exact .inl rfl

/-- A response of status OK leaves the fault log as it is. -/
@[simp] theorem logFault_ok (f : BitVec 16) : logFault f .ok = f := logFault_unlogged f .ok rfl

/-- Every command ends with a response, and logs that response's status and nothing else. -/
theorem Effect.logs {i : Instr} {s t : State} (e : Effect i s t) :
    ∃ r, t.rsp = some r ∧ t.faults = logFault s.faults r.status := by
  cases e with
  | raise _ _ => exact ⟨_, rfl, rfl⟩
  | _ => exact ⟨_, rfl, (logFault_ok _).symm⟩

/-- Every step ends with a response, and logs that response's status and nothing else. -/
theorem step_logs {s t : State} (h : step s = .next t) :
    ∃ r, t.rsp = some r ∧ t.faults = logFault s.faults r.status := by
  obtain ⟨inp, rest, -, ⟨i, -, hx⟩ | ⟨_, -, rfl⟩⟩ := step_cases h
  · exact (effect_of_exec hx).logs
  · exact ⟨_, rfl, rfl⟩

/-- The implemented bits of FAULTS are 3–8. -/
theorem getLsbD_faultsImplemented (n : Nat) :
    faultsImplemented.getLsbD n = (decide (3 ≤ n) && decide (n ≤ 8)) := by
  by_cases hn : n < 16
  · interval_cases n <;> decide
  · rw [BitVec.getLsbD_of_ge _ _ (by omega), decide_eq_false (p := n ≤ 8) (by omega), Bool.and_false]

/-- A VID.STEP leaves the flag set if it was set or the position was the last of the frame. -/
theorem frameReady_step_iff (v : Vid) :
    v.step.frameReady = true ↔ v.frameReady = true ∨ (v.dot.toNat = 340 ∧ v.scanline.toInt = 260) := by
  by_cases hd : v.dot.toNat = 340
  · by_cases hl : v.scanline.toInt = 260
    · simp [step_of_wrap hd hl, hd, hl]
    · simp [step_of_line_lt hd hl, hl]
  · simp [step_of_dot_lt hd, hd]

/-! The invariant, one lemma an update -/

section
variable {s : State}

/-- The ports and the queue are no part of the invariant. -/
theorem State.Inv.accept (h : s.Inv) (inp : Input) (rest : List Input) : (s.accept inp rest).Inv :=
  ⟨h.ramCanonical, h.vidInRange, h.faultsReserved, h.cartLoaded⟩

/-- The response is no part of the invariant. -/
theorem State.Inv.respond (h : s.Inv) (d : BitVec 16) : (s.respond d).Inv :=
  ⟨h.ramCanonical, h.vidInRange, h.faultsReserved, h.cartLoaded⟩

/-- An error sets no reserved bit of the fault log. -/
theorem State.Inv.raise (h : s.Inv) (e : BlockError) : (s.raise e).Inv :=
  ⟨h.ramCanonical, h.vidInRange, logFault_reserved _ _ h.faultsReserved, h.cartLoaded⟩

/-- The requests at the device ports are no part of the invariant. -/
theorem State.Inv.requests (h : s.Inv) (q : PortRequest 3) (q' : PortRequest 5) :
    { s with ppuReq := q, apuioReq := q' }.Inv :=
  ⟨h.ramCanonical, h.vidInRange, h.faultsReserved, h.cartLoaded⟩

/-- A store keeps RAM in canonical form. -/
theorem State.Inv.store (h : s.Inv) (j : BitVec 11) (v : Byte) : { s with ram := Memory.write s.ram j v }.Inv :=
  ⟨wf_write _ _ _ h.ramCanonical, h.vidInRange, h.faultsReserved, h.cartLoaded⟩

/-- VID may be replaced by one in range. -/
theorem State.Inv.withVid (h : s.Inv) {v : Vid} (hv : v.inRange) : { s with vid := v }.Inv :=
  ⟨h.ramCanonical, hv, h.faultsReserved, h.cartLoaded⟩

/-- The cartridge of an image that loads is what its own content loads to, the content being the whole image. -/
theorem State.Inv.load (h : s.Inv) {img : List Byte} {c : Cart} (hl : loadImage s.params img = .ok c) :
    { s with cart := some c }.Inv := by
  refine ⟨h.ramCanonical, h.vidInRange, h.faultsReserved, fun c' hc => ?_⟩
  obtain rfl : c = c' := by simpa using hc
  rwa [loadImage_content hl]

/-- An empty slot holds no cartridge that could differ from its load. -/
theorem State.Inv.unload (h : s.Inv) : { s with cart := none }.Inv :=
  ⟨h.ramCanonical, h.vidInRange, h.faultsReserved, nofun⟩

end

/-- Every effect a command can have keeps the invariant. -/
theorem Effect.inv {i : Instr} {s t : State} (e : Effect i s t) (h : s.Inv) : t.Inv := by
  cases e with
  | raise err _ => exact h.raise err
  | answer d => exact h.respond d
  | ppu a q d _ _ => exact (h.requests q s.apuioReq).respond d
  | apuIo a q d _ _ => exact (h.requests s.ppuReq q).respond d
  | store a v _ _ _ => exact (h.store _ v).respond 0
  | vidStep _ => exact (h.withVid (inRange_step h.vidInRange)).respond 0
  | vidTake _ => exact (h.withVid (v := s.vid.clearFrameReady) h.vidInRange).respond _
  | load c _ hl => exact (h.load hl).respond 0
  | unload _ => exact h.unload.respond 0

/-- Power-on meets the invariant with any parameters. -/
theorem powerOn_inv (p : Config.Params) : (powerOn p).Inv :=
  ⟨rfl, (by decide : State.reset.vid.inRange), (by decide : State.reset.reservedFaultsClear), nofun⟩

end Sys2Proof.Machine
end

section
/-! PROOFS of the statements about the state (10_state.md). -/

namespace Sys2Proof.Machine

/-- Settles O41: the input taken is no part of the invariant, and every effect of a command, as an illegal word's error,
keeps it. -/
theorem everyStepKeepsTheInvariant : Obligations.EveryStepKeepsTheInvariant := by
  intro s t hinv h
  obtain ⟨inp, rest, -, ⟨i, -, hx⟩ | ⟨_, -, rfl⟩⟩ := step_cases h
  · exact (effect_of_exec hx).inv (hinv.accept inp rest)
  · exact (hinv.accept inp rest).raise _

/-- Settles O35: VID.TAKE, VID.PEEKFR and VID.STEP by their own meaning, every other command by its effect. -/
theorem frameReadyIsStickyUntilTaken : Obligations.FrameReadyIsStickyUntilTaken := by
  refine ⟨rfl, fun i s t h => ⟨?_, ?_, ?_, ?_⟩⟩
  · rintro rfl
    cases h
    rfl
  · rintro (rfl | rfl) <;> cases h <;> rfl
  · rintro rfl -
    cases h
    exact frameReady_step_iff s.vid
  · intro ht hs
    rw [(effect_of_exec h).vid_eq hs ht]

/-- Settles O38: a step logs the status of its response, read bit by bit; SYS.FAULTS answers the implemented bits. -/
theorem faultLogIsSticky : Obligations.FaultLogIsSticky := by
  refine ⟨rfl, fun s t h => ?_, fun s => ⟨_, s.readFaults, rfl, rfl, fun n hn => ?_⟩⟩
  · obtain ⟨r, hr, hf⟩ := step_logs h
    exact ⟨r, hr, fun n hn => hf ▸ getLsbD_logFault s.faults r.status n hn⟩
  · have hbit : faultsImplemented.getLsbD n = false := by
      rw [getLsbD_faultsImplemented, Bool.and_eq_false_iff, decide_eq_false_iff_not, decide_eq_false_iff_not]
      omega
    rw [State.readFaults, BitVec.getLsbD_and, hbit, Bool.and_false]

/-- Settles O43: only a load or an unload that ends with OK changes the slot. -/
theorem loadedCartridgeIsImmutable : Obligations.LoadedCartridgeIsImmutable := by
  intro i s t h
  rcases (effect_of_exec h).cart_cases with hc | ⟨hi, hr⟩
  · exact ⟨fun _ => hc, fun _ _ => hc⟩
  · exact ⟨fun hn => absurd hi (by simp [hn]), fun _ hok => absurd rfl (hok _ hr)⟩

/-- Settles O10: reset is power-on with the default parameters. -/
theorem powerOnStateMeetsTheInvariant : Obligations.PowerOnStateMeetsTheInvariant :=
  ⟨powerOn_inv Config.defaults, powerOn_inv⟩

end Sys2Proof.Machine
end

section
/-! SUPPORT. The bus commands said once: the three primitives at each range of the decode table, off the device ports,
under null and under external devices; and what an effect leaves in RAM, the parameters and the ports. -/

namespace Sys2Proof

/-- The word of a command as a number, from the fields it is encoded with. -/
theorem toNat_encode (i : Instr) : (encode i).toNat =
    i.fields.unit.toNat * 0x10000000 + i.fields.op.toNat * 0x1000000 + i.fields.a.toNat * 0x100 + i.fields.d.toNat :=
  toNat_pack i.fields

end Sys2Proof

namespace Sys2Proof.Machine

/-! What an effect leaves -/

/-- RAM changes only in a BUS.WRITE with a cartridge in, and only at the byte its decoded address names. -/
theorem Effect.ram_cases {i : Instr} {s t : State} (e : Effect i s t) :
    t.ram = s.ram ∨ ∃ a v, i = .busWrite a v ∧ s.cart ≠ none ∧ (busDecode a).1 = .ram ∧
      t.ram = Memory.write s.ram (ramIndex (busDecode a).2) v := by
  cases e with
  | store a v hi hc hr => exact .inr ⟨a, v, hi, hc, hr, rfl⟩
  | _ => exact .inl rfl

/-- No command changes a parameter, an input port or the queue. -/
theorem Effect.environment_eq {i : Instr} {s t : State} (e : Effect i s t) :
    t.params = s.params ∧ t.ports = s.ports ∧ t.inputs = s.inputs := by
  cases e <;> exact ⟨rfl, rfl, rfl⟩

/-- A command that is not on the bus makes no device request. -/
theorem Effect.requests_eq {i : Instr} {s t : State} (e : Effect i s t) (hi : ∀ a, ¬ OnBus a i) :
    t.ppuReq = s.ppuReq ∧ t.apuioReq = s.apuioReq := by
  cases e with
  | ppu a _ _ hb _ => exact absurd hb (hi a)
  | apuIo a _ _ hb _ => exact absurd hb (hi a)
  | _ => exact ⟨rfl, rfl⟩

/-- A command leaves FAULTS as it is where it ends with OK, and every bit but its own status's where it does not. -/
theorem Effect.faults_frame {i : Instr} {s t : State} (e : Effect i s t) :
    ∃ r, t.rsp = some r ∧ (r.status = .ok → t.faults = s.faults) ∧
      ∀ n, n < 16 → n ≠ r.status.code.toNat → t.faults.getLsbD n = s.faults.getLsbD n := by
  obtain ⟨r, hr, hf⟩ := e.logs
  refine ⟨r, hr, fun hok => ?_, fun n hn hne => ?_⟩
  · rw [hf, hok, logFault_ok]
  · simp [hf, getLsbD_logFault _ _ _ hn, hne.symm]

/-! Commands with and without a cartridge -/

/-- Without a cartridge every command that needs one ends with NoCartridge. -/
theorem exec_of_cart_none {i : Instr} {s : State} (hi : NeedsCart i) (hc : s.cart = none) :
    exec i s = .next (s.raise .noCartridge) := by
  cases hi with
  | bus a hb => cases hb <;> exact congrArg _ (withCart_none hc)
  | info f hf => simp [exec, execCartInfo, hc, hf]
  | _ => exact congrArg _ (withCart_none hc)

section
variable {s : State} {c : Cart} (hc : s.cart = some c)
include hc

theorem exec_busRead (a : Addr) : exec (.busRead a) s = .next (s.finishRead (busRead c a s)) :=
  congrArg _ (withCart_some hc)

theorem exec_busPeek (a : Addr) : exec (.busPeek a) s = .next (s.finishRead (busPeek c a s)) :=
  congrArg _ (withCart_some hc)

theorem exec_busWrite (a : Addr) (d : Byte) : exec (.busWrite a d) s = .next ((busWrite c a d s).respond 0) :=
  congrArg _ (withCart_some hc)

theorem exec_mapReadPrg (a : Addr) :
    exec (.mapReadPrg a) s = .next (s.finishRead (mapperResult (Mapper.readPrg c a) s)) :=
  congrArg _ (withCart_some hc)

end

/-- MAP.PEEKPRG is MAP.READPRG under FixedBank (42_mapper.md R126). -/
theorem exec_mapPeekPrg (a : Addr) (s : State) : exec (.mapPeekPrg a) s = exec (.mapReadPrg a) s := rfl

/-! The device ports (60_exceptions.md R205, R206) -/

section
variable {s : State}

theorem ppuRead_null (h : s.params.devices = .null) (i : BitVec 3) : ppuRead i s = (s.params.nullReadValue, s) := by
  simp [ppuRead, h]

theorem ppuPeek_null (h : s.params.devices = .null) (i : BitVec 3) : ppuPeek i s = (s.params.nullReadValue, s) := by
  simp [ppuPeek, h]

theorem ppuWrite_null (h : s.params.devices = .null) (i : BitVec 3) (v : Byte) : ppuWrite i v s = s := by
  simp [ppuWrite, h]

theorem apuIoRead_null (h : s.params.devices = .null) (i : BitVec 5) :
    apuIoRead i s = (s.params.nullReadValue, s) := by
  simp [apuIoRead, h]

theorem apuIoPeek_null (h : s.params.devices = .null) (i : BitVec 5) :
    apuIoPeek i s = (s.params.nullReadValue, s) := by
  simp [apuIoPeek, h]

theorem apuIoWrite_null (h : s.params.devices = .null) (i : BitVec 5) (v : Byte) : apuIoWrite i v s = s := by
  simp [apuIoWrite, h]

theorem ppuRead_external (h : s.params.devices = .external) (i : BitVec 3) :
    ppuRead i s = (s.ports.ppuRdata, { s with ppuReq := .read i }) := by
  simp [ppuRead, h]

theorem ppuPeek_external (h : s.params.devices = .external) (i : BitVec 3) :
    ppuPeek i s = (s.ports.ppuRdata, { s with ppuReq := .peek i }) := by
  simp [ppuPeek, h]

theorem ppuWrite_external (h : s.params.devices = .external) (i : BitVec 3) (v : Byte) :
    ppuWrite i v s = { s with ppuReq := .write i v } := by
  simp [ppuWrite, h]

theorem apuIoRead_external (h : s.params.devices = .external) (i : BitVec 5) :
    apuIoRead i s = (s.ports.apuioRdata, { s with apuioReq := .read i }) := by
  simp [apuIoRead, h]

theorem apuIoPeek_external (h : s.params.devices = .external) (i : BitVec 5) :
    apuIoPeek i s = (s.ports.apuioRdata, { s with apuioReq := .peek i }) := by
  simp [apuIoPeek, h]

theorem apuIoWrite_external (h : s.params.devices = .external) (i : BitVec 5) (v : Byte) :
    apuIoWrite i v s = { s with apuioReq := .write i v } := by
  simp [apuIoWrite, h]

end

/-! The bus primitives by ranges of the address -/

section
variable {s : State} {c : Cart} {a : Addr}

/-- The decoder answers RAM exactly below 0x2000. -/
theorem busDecode_fst_eq_ram_iff : (busDecode a).1 = .ram ↔ a.toNat ≤ 0x1FFF := by
  refine ⟨fun h => ?_, fun h => by rw [busDecode_ram h]⟩
  by_contra hlt
  have : ¬ a ≤ 0x1FFF := by simpa [BitVec.le_def] using hlt
  simp only [busDecode, if_neg this] at h
  split_ifs at h

theorem busRead_ram (h : a.toNat ≤ 0x1FFF) :
    busRead c a s = .ok (Memory.read s.ram (ramIndex (a &&& 0x07FF)), s) := by
  simp only [busRead, busDecode_ram h]

theorem busRead_ppu (h1 : 0x2000 ≤ a.toNat) (h2 : a.toNat ≤ 0x3FFF) :
    busRead c a s = .ok (ppuRead (ppuIndex (a &&& 0x0007)) s) := by
  simp only [busRead, busDecode_ppu h1 h2]

theorem busRead_apuIo (h1 : 0x4000 ≤ a.toNat) (h2 : a.toNat ≤ 0x4017) :
    busRead c a s = .ok (apuIoRead (apuIoIndex (a - 0x4000)) s) := by
  simp only [busRead, busDecode_apuIo h1 h2]

/-- From 0x4018 up to the PRG window a read is open bus, be it the decoder's region or the mapper's. -/
theorem busRead_openBus (h1 : 0x4018 ≤ a.toNat) (h2 : a.toNat ≤ 0x7FFF) :
    busRead c a s = .ok (Config.openBus a, s) := by
  by_cases h : a.toNat ≤ 0x401F
  · simp only [busRead, busDecode_openBus h1 h]
  · simp only [busRead, busDecode_cart (show 0x4020 ≤ a.toNat by omega),
      readPrg_below (show a.toNat < 0x8000 by omega), mapperResult]

theorem busRead_prg (h : 0x8000 ≤ a.toNat) : busRead c a s = mapperResult (Mapper.readPrg c a) s := by
  simp only [busRead, busDecode_cart (show 0x4020 ≤ a.toNat by omega)]

theorem busPeek_ppu (h1 : 0x2000 ≤ a.toNat) (h2 : a.toNat ≤ 0x3FFF) :
    busPeek c a s = .ok (ppuPeek (ppuIndex (a &&& 0x0007)) s) := by
  simp only [busPeek, busDecode_ppu h1 h2]

theorem busPeek_apuIo (h1 : 0x4000 ≤ a.toNat) (h2 : a.toNat ≤ 0x4017) :
    busPeek c a s = .ok (apuIoPeek (apuIoIndex (a - 0x4000)) s) := by
  simp only [busPeek, busDecode_apuIo h1 h2]

/-- Peek and read of the bus differ only in the request at an external device's port. -/
theorem busPeek_eq_busRead (h : a.toNat ≤ 0x1FFF ∨ 0x4018 ≤ a.toNat ∨ s.params.devices = .null) :
    busPeek c a s = busRead c a s := by
  rcases h with h | h | h
  · simp only [busPeek, busRead, busDecode_ram h]
  · by_cases h' : a.toNat ≤ 0x401F
    · simp only [busPeek, busRead, busDecode_openBus h h']
    · simp only [busPeek, busRead, busDecode_cart (show 0x4020 ≤ a.toNat by omega), peekPrg_eq_readPrg]
  · simp only [busPeek, busRead, ppuPeek_null h, ppuRead_null h, apuIoPeek_null h, apuIoRead_null h,
      peekPrg_eq_readPrg]

/-- Null devices read as the parameter's byte at both ports. -/
theorem busRead_null (h1 : 0x2000 ≤ a.toNat) (h2 : a.toNat ≤ 0x4017) (hn : s.params.devices = .null) :
    busRead c a s = .ok (s.params.nullReadValue, s) := by
  by_cases h : a.toNat ≤ 0x3FFF
  · rw [busRead_ppu h1 h, ppuRead_null hn]
  · rw [busRead_apuIo (by omega) h2, apuIoRead_null hn]

theorem busWrite_ram (d : Byte) (h : a.toNat ≤ 0x1FFF) :
    busWrite c a d s = { s with ram := Memory.write s.ram (ramIndex (a &&& 0x07FF)) d } := by
  simp only [busWrite, busDecode_ram h]

theorem busWrite_ppu (d : Byte) (h1 : 0x2000 ≤ a.toNat) (h2 : a.toNat ≤ 0x3FFF) :
    busWrite c a d s = ppuWrite (ppuIndex (a &&& 0x0007)) d s := by
  simp only [busWrite, busDecode_ppu h1 h2]

theorem busWrite_apuIo (d : Byte) (h1 : 0x4000 ≤ a.toNat) (h2 : a.toNat ≤ 0x4017) :
    busWrite c a d s = apuIoWrite (apuIoIndex (a - 0x4000)) d s := by
  simp only [busWrite, busDecode_apuIo h1 h2]

/-- Null devices ignore a write at both ports. -/
theorem busWrite_null (d : Byte) (h1 : 0x2000 ≤ a.toNat) (h2 : a.toNat ≤ 0x4017) (hn : s.params.devices = .null) :
    busWrite c a d s = s := by
  by_cases h : a.toNat ≤ 0x3FFF
  · rw [busWrite_ppu d h1 h, ppuWrite_null hn]
  · rw [busWrite_apuIo d (by omega) h2, apuIoWrite_null hn]

/-- A write above the device ports is ignored: in the open-bus region by the bus, in the cartridge's by FixedBank. -/
theorem busWrite_above_ports (d : Byte) (hc : s.cart = some c) (h : 0x4018 ≤ a.toNat) : busWrite c a d s = s := by
  by_cases h' : a.toNat ≤ 0x401F
  · simp only [busWrite, busDecode_openBus h h']
  · simp only [busWrite, busDecode_cart (show 0x4020 ≤ a.toNat by omega)]
    rw [show Mapper.writePrg c a d = c from rfl, ← hc]

/-! The end of a PRG read -/

/-- A PRG read in the window of a bank that is wholly there ends with a byte of the content. -/
theorem finishRead_prg_inRange (h : 0x8000 ≤ a.toNat)
    (h1 : fixedBankStart c a + 0x4000 ≤ c.lowStart + c.hdr.prgBankCount.toNat * 0x4000)
    (h2 : fixedBankStart c a + 0x4000 ≤ c.content.length) :
    ∃ b, c.content[fixedBankStart c a + a.toNat % 0x4000]? = some b ∧
      s.finishRead (mapperResult (Mapper.readPrg c a) s) = s.respond (zext16 b) := by
  have hlt : fixedBankStart c a + a.toNat % 0x4000 < c.content.length := by omega
  refine ⟨_, List.getElem?_eq_getElem hlt, ?_⟩
  rw [readPrg_inRange h h1 h2, List.getD_eq_getElem _ _ hlt]
  rfl

/-- A PRG read in the window of a bank that is not wholly there ends with ContentOutOfRange. -/
theorem finishRead_prg_outOfRange (h : 0x8000 ≤ a.toNat)
    (h1 : fixedBankStart c a + 0x4000 > c.lowStart + c.hdr.prgBankCount.toNat * 0x4000 ∨
      fixedBankStart c a + 0x4000 > c.content.length) :
    s.finishRead (mapperResult (Mapper.readPrg c a) s) = s.raise (.contentOutOfRange a) := by
  rw [readPrg_outOfRange h h1]
  rfl

end

/-! What a read answers depends on -/

/-- Two reads that answer the same byte or the same error end with the same response. -/
theorem finishRead_rsp_congr {s t : State} {r r' : Except BlockError (Byte × State)}
    (h : r.map Prod.fst = r'.map Prod.fst) : (s.finishRead r).rsp = (t.finishRead r').rsp := by
  rcases r with e | ⟨v, u⟩ <;> rcases r' with e' | ⟨v', u'⟩ <;> simp_all [Except.map]

/-- What a bus read answers depends on RAM, the parameters and the device answers at the ports only. -/
theorem busRead_value_congr {s t : State} (c : Cart) (a : Addr) (hram : t.ram = s.ram) (hparams : t.params = s.params)
    (hports : t.ports = s.ports) : (busRead c a t).map Prod.fst = (busRead c a s).map Prod.fst := by
  simp only [busRead]
  split
  · simp [Except.map, hram]
  · simp only [Except.map, ppuRead, hparams, hports]
    split <;> rfl
  · simp only [Except.map, apuIoRead, hparams, hports]
    split <;> rfl
  · rfl
  · cases Mapper.readPrg c a <;> rfl

/-- The value of a PRG byte as a bus result is the mapper's answer. -/
theorem mapperResult_value (r : Except BlockError Byte) (s : State) : (mapperResult r s).map Prod.fst = r := by
  cases r <;> rfl

/-! RAM under a command -/

/-- Below 0x2000 a BUS.WRITE stores to the byte its decoded address names. -/
theorem storesToRam_busWrite {a : Addr} (d : Byte) (h : a.toNat ≤ 0x1FFF) (j : BitVec 11) :
    storesToRam j (.busWrite a d) = if ramIndex (a &&& 0x07FF) = j then some d else none := by
  have hlt : a.toNat < 0x2000 := by omega
  simp only [storesToRam, hlt, ← BitVec.toNat_inj, toNat_ramIndex, decide_true, Bool.true_and, decide_eq_true_eq]

/-- No other command stores to RAM. -/
theorem storesToRam_eq_none {i : Instr} (h : ∀ a d, i = .busWrite a d → ¬ a.toNat ≤ 0x1FFF) (j : BitVec 11) :
    storesToRam j i = none := by
  cases i with
  | busWrite a d =>
    have := h a d rfl
    simp [storesToRam, show ¬ a.toNat < 0x2000 by omega]
  | _ => rfl

/-- With a cartridge in, a command leaves in a RAM byte what it stores there, or what it was. -/
theorem exec_read_ram {i : Instr} {s t : State} {c : Cart} (hc : s.cart = some c) (h : exec i s = .next t)
    (j : BitVec 11) : Memory.read t.ram j = (storesToRam j i).getD (Memory.read s.ram j) := by
  by_cases hi : ∃ a d, i = .busWrite a d ∧ a.toNat ≤ 0x1FFF
  · obtain ⟨a, d, rfl, ha⟩ := hi
    rw [exec_busWrite hc, busWrite_ram d ha] at h
    cases h
    rw [storesToRam_busWrite d ha]
    refine (read_write _ _ _ _).trans ?_
    split <;> rfl
  · have hnone : storesToRam j i = none := storesToRam_eq_none (fun a d e ha => hi ⟨a, d, e, ha⟩) j
    have hram : t.ram = s.ram := (effect_of_exec h).ram_cases.resolve_right
      fun ⟨a, d, e, _, hdec, _⟩ => hi ⟨a, d, e, busDecode_fst_eq_ram_iff.1 hdec⟩
    rw [hnone, hram, Option.getD_none]

/-- The store of a sequence's last command wins over the stores before it. -/
theorem lastStoreToRam_cons (j : BitVec 11) (i : Instr) (is : List Instr) :
    lastStoreToRam j (i :: is) = (lastStoreToRam j is).or (storesToRam j i) := by
  rw [lastStoreToRam]
  cases lastStoreToRam j is <;> rfl

end Sys2Proof.Machine
end

section
/-! PROOFS of the statements about the address bus and RAM (20_memory.md, 43_bus.md). -/

namespace Sys2Proof.Machine

/-- Settles O11, range by range. -/
theorem addressDecodeIsTheTable : Obligations.AddressDecodeIsTheTable := by
  refine fun a => ⟨fun h => ⟨_, busDecode_ram h, toNat_ramOffset a⟩,
    fun ⟨h1, h2⟩ => ⟨_, busDecode_ppu h1 h2, toNat_ppuOffset a⟩,
    fun ⟨h1, h2⟩ => ⟨_, busDecode_apuIo h1 h2, ?_⟩,
    fun ⟨h1, h2⟩ => ⟨_, busDecode_openBus h1 h2, ?_⟩, busDecode_cart⟩
  · exact BitVec.toNat_sub_of_le (by simpa [BitVec.le_def] using h1)
  · exact BitVec.toNat_sub_of_le (by simpa [BitVec.le_def] using h1)

/-- Settles O12: the bus read at each range, under each kind of devices. -/
theorem busReadResult : Obligations.BusReadResult := by
  refine fun s a => ⟨by rw [toNat_encode]; simp [Instr.fields, Nat.mul_comm],
    fun hc => exec_of_cart_none (.bus a .read) hc, fun c hc => ⟨?_, ?_, ?_, ?_, ?_, ?_, ?_⟩⟩
  · intro h
    exact ⟨_, toNat_ramIndex a, by rw [exec_busRead hc, busRead_ram h]; rfl⟩
  · intro ⟨h1, h2⟩ hn
    rw [exec_busRead hc, busRead_null h1 (by omega) hn]
    rfl
  · intro ⟨h1, h2⟩ he
    exact ⟨_, toNat_ppuIndex a, by rw [exec_busRead hc, busRead_ppu h1 h2, ppuRead_external he]; rfl⟩
  · intro ⟨h1, h2⟩ hn
    rw [exec_busRead hc, busRead_null (by omega) h2 hn]
    rfl
  · intro ⟨h1, h2⟩ he
    exact ⟨_, toNat_apuIoIndex a h1 h2, by rw [exec_busRead hc, busRead_apuIo h1 h2, apuIoRead_external he]; rfl⟩
  · intro ⟨h1, h2⟩
    rw [exec_busRead hc, busRead_openBus h1 h2]
    rfl
  · intro start h hstart
    rw [exec_busRead hc, busRead_prg h, hstart, ← fixedBankStart_eq h]
    refine ⟨fun ⟨h1, h2⟩ => ?_, fun hout => congrArg _ (finishRead_prg_outOfRange h hout)⟩
    obtain ⟨b, hb, hend⟩ := finishRead_prg_inRange (s := s) h h1 h2
    exact ⟨b, hb, congrArg _ hend⟩

/-- Settles O13: off the external devices' ports a peek is the read of O12. -/
theorem busPeekResult : Obligations.BusPeekResult := by
  intro s a
  have ⟨_, _, hread⟩ := busReadResult s a
  refine ⟨by rw [toNat_encode]; simp [Instr.fields]; omega,
    fun hc => exec_of_cart_none (.bus a .peek) hc, fun c hc => ?_⟩
  obtain ⟨hram, -, -, -, -, hopen, hprg⟩ := hread c hc
  have hpeek (h : a.toNat ≤ 0x1FFF ∨ 0x4018 ≤ a.toNat ∨ s.params.devices = .null) :
      exec (.busPeek a) s = exec (.busRead a) s := by
    rw [exec_busPeek hc, exec_busRead hc, busPeek_eq_busRead h]
  refine ⟨?_, ?_, ?_, ?_, ?_, ?_⟩
  · intro h
    rw [hpeek (.inl h)]
    exact hram h
  · intro ⟨h1, h2⟩ hn
    rw [hpeek (.inr (.inr hn)), exec_busRead hc, busRead_null h1 h2 hn]
    rfl
  · intro ⟨h1, h2⟩ he
    exact ⟨_, toNat_ppuIndex a, by rw [exec_busPeek hc, busPeek_ppu h1 h2, ppuPeek_external he]; rfl⟩
  · intro ⟨h1, h2⟩ he
    exact ⟨_, toNat_apuIoIndex a h1 h2, by rw [exec_busPeek hc, busPeek_apuIo h1 h2, apuIoPeek_external he]; rfl⟩
  · intro h
    rw [hpeek (.inr (.inl h.1))]
    exact hopen h
  · intro start h hstart
    rw [hpeek (.inr (.inl (by omega)))]
    exact hprg start h hstart

/-- Settles O14: the bus write at each range, under each kind of devices. -/
theorem busWriteResult : Obligations.BusWriteResult := by
  refine fun s a d => ⟨by rw [toNat_encode]; simp [Instr.fields]; omega,
    fun hc => exec_of_cart_none (.bus a (.write d)) hc, fun c hc => ⟨?_, ?_, ?_, ?_, ?_⟩⟩
  · intro h
    refine ⟨_, by rw [exec_busWrite hc, busWrite_ram d h]; rfl, fun j => ?_⟩
    simp only [read_write, ← BitVec.toNat_inj, toNat_ramIndex, eq_comm]
  · intro ⟨h1, h2⟩ hn
    rw [exec_busWrite hc, busWrite_null d h1 h2 hn]
    rfl
  · intro ⟨h1, h2⟩ he
    exact ⟨_, toNat_ppuIndex a, by rw [exec_busWrite hc, busWrite_ppu d h1 h2, ppuWrite_external he]; rfl⟩
  · intro ⟨h1, h2⟩ he
    exact ⟨_, toNat_apuIoIndex a h1 h2, by
      rw [exec_busWrite hc, busWrite_apuIo d h1 h2, apuIoWrite_external he]; rfl⟩
  · intro h
    rw [exec_busWrite hc, busWrite_above_ports d hc h]
    rfl

/-- Settles O15: both addresses decode to one RAM index. -/
theorem ramMirrorsNameOneByte : Obligations.RamMirrorsNameOneByte := by
  intro s c a b d hc ha hb hab
  have hidx : ramIndex (a &&& 0x07FF) = ramIndex (b &&& 0x07FF) :=
    BitVec.eq_of_toNat_eq (by rw [toNat_ramIndex, toNat_ramIndex, hab])
  have hread : busRead c a s = busRead c b s := by
    rw [busRead_ram (by omega), busRead_ram (by omega), hidx]
  refine ⟨?_, ?_, ?_⟩
  · rw [exec_busRead hc, exec_busRead hc, hread]
  · rw [exec_busPeek hc, exec_busPeek hc, busPeek_eq_busRead (.inl (by omega)),
      busPeek_eq_busRead (.inl (by omega)), hread]
  · refine ⟨_, _, exec_busWrite hc a d, exec_busRead (c := c) ?_ b, ?_⟩
    · rw [busWrite_ram d (by omega)]
      exact hc
    · rw [busWrite_ram d (by omega), busRead_ram (by omega), hidx]
      simp [read_write, zext16]

/-- Settles O16: a peek leaves in place all that a read's answer depends on. -/
theorem peekAgreesWithRead : Obligations.PeekAgreesWithRead := by
  intro s a
  cases hc : s.cart with
  | none =>
    exact ⟨⟨_, _, _, exec_of_cart_none (.bus a .peek) hc, exec_of_cart_none (.bus a .read) hc,
        exec_of_cart_none (.bus a .read) hc, rfl, rfl⟩,
      ⟨_, _, _, exec_of_cart_none (.peekPrg a) hc, exec_of_cart_none (.readPrg a) hc,
        exec_of_cart_none (.readPrg a) hc, rfl, rfl⟩⟩
  | some c =>
    have slot {i : Instr} {t : State} (h : exec i s = .next t) (hi : changesCart i = false) : t.cart = some c :=
      ((loadedCartridgeIsImmutable i s t h).1 hi).trans hc
    constructor
    · have hpeek := exec_busPeek hc a
      have e := effect_of_exec hpeek
      obtain ⟨hparams, hports, -⟩ := e.environment_eq
      have hram := e.ram_cases.resolve_right nofun
      have hsame := busPeek_value c a s
      exact ⟨_, _, _, hpeek, exec_busRead hc a, exec_busRead (slot hpeek rfl) a, finishRead_rsp_congr hsame,
        finishRead_rsp_congr ((busRead_value_congr c a hram hparams hports).trans hsame.symm)⟩
    · have hpeek := (exec_mapPeekPrg a s).trans (exec_mapReadPrg hc a)
      exact ⟨_, _, _, hpeek, exec_mapReadPrg hc a, exec_mapReadPrg (slot hpeek rfl) a, rfl,
        finishRead_rsp_congr (by rw [mapperResult_value, mapperResult_value])⟩

/-- Settles O44, by induction on the commands. -/
theorem ramHoldsTheLastStore : Obligations.RamHoldsTheLastStore := by
  intro is
  induction is with
  | nil => exact fun s c hc _ => ⟨s, rfl, hc, fun _ => rfl⟩
  | cons i is ih =>
    intro s c hc hkeep
    obtain ⟨hi, his⟩ := List.forall_mem_cons.1 hkeep
    obtain ⟨u, hu⟩ := exec_next i s
    have hcu : u.cart = some c := (loadedCartridgeIsImmutable i s u hu).1 hi ▸ hc
    obtain ⟨t, ht, hct, hram⟩ := ih u c hcu his
    refine ⟨t, by simp only [execAll, hu, ht], hct, fun j => ?_⟩
    rw [hram, exec_read_ram hc hu, lastStoreToRam_cons]
    cases lastStoreToRam j is <;> rfl

/-- Settles O48: what any effect leaves, for three commands that neither load, step nor take. -/
theorem frameOfWritingCommands : Obligations.FrameOfWritingCommands := by
  intro s t a d i hi h
  have e := effect_of_exec h
  obtain ⟨hparams, hports, hinputs⟩ := e.environment_eq
  have ⟨hkeep, hstep, htake⟩ : changesCart i = false ∧ i ≠ .vidStep ∧ i ≠ .vidTake := by
    fin_cases hi <;> exact ⟨rfl, nofun, nofun⟩
  refine ⟨fun j => ?_, (loadedCartridgeIsImmutable i s t h).1 hkeep, e.vid_eq hstep htake, hparams, hports, hinputs,
    e.faults_frame, fun hne => e.requests_eq ?_⟩
  · rcases e.ram_cases with hram | ⟨a', d', rfl, hc, hdec, hram⟩
    · exact .inr (by rw [hram])
    · obtain ⟨rfl, rfl⟩ : a' = a ∧ d' = d := by simpa using hi
      by_cases hj : ramIndex (busDecode a').2 = j
      · exact .inl ⟨rfl, hc, hdec, hj.symm⟩
      · exact .inr (by rw [hram, read_write, if_neg hj])
  · fin_cases hi
    · exact absurd rfl hne
    · exact nofun
    · exact nofun

end Sys2Proof.Machine
end

section
/-! SUPPORT. The decoder said once: a word's fields are those of a command exactly where they are well formed, and that
command is the one decoded; well-formedness as numbers; and the rows of the opcode table as well-formed fields. -/

namespace Sys2Proof

/-! Well-formed fields as numbers (30_encoding.md R73, R74) -/

/-- The must-be-zero bits of D as bounds on its number. -/
theorem and_eq_zero_iff_toNat : ∀ d : Byte,
    (d &&& 0xF0 = 0 ↔ d.toNat < 16) ∧ (d &&& 0xFC = 0 ↔ d.toNat < 4) ∧ (d &&& 0xFF = 0 ↔ d.toNat = 0) := by
  decide

/-- The operations each unit has, from OP 0 on. -/
theorem opKnown_iff {f : Fields} : f.opKnown = true ↔
    (f.unit.toNat = 0 ∧ f.op.toNat < 3) ∨ (f.unit.toNat = 1 ∧ f.op.toNat < 6) ∨
    (f.unit.toNat = 2 ∧ f.op.toNat < 1) ∨ (f.unit.toNat = 3 ∧ f.op.toNat < 5) ∨
    (f.unit.toNat = 4 ∧ f.op.toNat < 3) ∨ (f.unit.toNat = 5 ∧ f.op.toNat < 1) := by
  rw [Fields.opKnown, decide_eq_true_eq, opCount]
  split <;> simp_all

/-- BUS and MAP have an address; for the other units A is zero. -/
theorem addressZeroed_iff {f : Fields} : f.addressZeroed = true ↔ f.unit.toNat ≤ 1 ∨ f.a.toNat = 0 := by
  simp [Fields.addressZeroed, Fields.takesAddress, ← BitVec.toNat_inj]

/-- D is free in the three writes, a mask or an index in VEC.RESOLVE and CART.INFO, and zero otherwise. -/
theorem dataZeroed_iff {f : Fields} : f.dataZeroed = true ↔
    (f.unit.toNat = 0 ∧ f.op.toNat = 2) ∨ (f.unit.toNat = 1 ∧ (f.op.toNat = 2 ∨ f.op.toNat = 5)) ∨
    (f.unit.toNat = 2 ∧ f.op.toNat = 0 ∧ f.d.toNat < 16) ∨ (f.unit.toNat = 4 ∧ f.op.toNat = 2 ∧ f.d.toNat < 4) ∨
    f.d.toNat = 0 := by
  obtain ⟨hmask, hindex, hall⟩ := and_eq_zero_iff_toNat f.d
  rw [Fields.dataZeroed, decide_eq_true_eq, Fields.zeroBitsOfD]
  split
  case h_1 | h_2 | h_3 => simp [*]
  case h_4 => rw [hmask]; omega
  case h_5 => rw [hindex]; omega
  case h_6 =>
    simp only [imp_false] at *
    rw [hall]
    omega

/-- A unit that has an operation is a known unit. -/
theorem wf_iff {f : Fields} :
    f.wf = true ↔ f.opKnown = true ∧ f.addressZeroed = true ∧ f.dataZeroed = true := by
  have hunit : f.opKnown = true → f.unitKnown = true := by
    rw [opKnown_iff, Fields.unitKnown, decide_eq_true_eq]
    omega
  simp only [Fields.wf, Bool.and_eq_true]
  tauto

/-! Decoding -/

/-- Every index of CART.INFO is that of its field (41_cartridge.md R107). -/
@[simp] theorem index_ofIndex : ∀ x : BitVec 2, (InfoField.ofIndex x).index = x := by decide

/-- The fields a command is encoded with decode to it. -/
theorem decodeFields_fields (i : Instr) : decodeFields i.fields = .ok i := by
  cases i with
  | vecResolve m => revert m; decide
  | cartInfo f => cases f <;> rfl
  | _ => rfl

/-- Fields that decode are those the command is encoded with. -/
theorem fields_of_decodeFields {f : Fields} {i : Instr} (h : decodeFields f = .ok i) : i.fields = f := by
  obtain ⟨u, o, a, d⟩ := f
  simp only [decodeFields] at h
  split at h <;> simp only [orNonzero_eq_ok, Except.ok.injEq, reduceCtorEq] at h
  case h_3 | h_7 | h_10 =>
    subst h
    simp_all [Instr.fields, ← BitVec.toNat_inj]
  all_goals
    obtain ⟨hzero, rfl⟩ := h
    simp_all [Instr.fields, ← BitVec.toNat_inj]
  case h_12 | h_22 => omega

/-- A command's fields are well formed. -/
theorem wf_fields (i : Instr) : i.fields.wf = true := by
  rw [wf_iff, opKnown_iff, addressZeroed_iff, dataZeroed_iff]
  cases i with
  | vecResolve m =>
    have hm : m.toNat % 256 < 16 := by omega
    simp [Instr.fields, hm]
  | cartInfo f => cases f <;> decide
  | _ => simp [Instr.fields]

/-- Well-formed fields decode: each operation of each unit in turn. -/
theorem exists_decodeFields_of_wf {f : Fields} (h : f.wf = true) : ∃ i, decodeFields f = .ok i := by
  obtain ⟨hop, ha, hd⟩ := wf_iff.1 h
  rw [opKnown_iff] at hop
  rw [addressZeroed_iff] at ha
  rw [dataZeroed_iff] at hd
  rcases hop with ⟨hu, hlt⟩ | ⟨hu, hlt⟩ | ⟨hu, hlt⟩ | ⟨hu, hlt⟩ | ⟨hu, hlt⟩ | ⟨hu, hlt⟩ <;>
    interval_cases ho : f.op.toNat
  all_goals
    simp [hu] at ha hd
    simp [decodeFields, hu, ho, orNonzero_eq_ok, ← BitVec.toNat_inj, ha, hd]
  all_goals omega

/-- A word decodes to a command exactly where its fields are that command's. -/
theorem decode_eq_ok_iff {w : Word} {i : Instr} : decode w = .ok i ↔ fieldsOf w = i.fields := by
  rw [decode]
  exact ⟨fun h => (fields_of_decodeFields h).symm, fun h => h ▸ decodeFields_fields i⟩

/-- A word decodes to some command exactly where its fields are well formed. -/
theorem exists_decode_eq_ok_iff {w : Word} : (∃ i, decode w = .ok i) ↔ (fieldsOf w).wf = true := by
  refine ⟨?_, exists_decodeFields_of_wf⟩
  rintro ⟨i, h⟩
  rw [decode_eq_ok_iff.1 h, wf_fields]

/-- A word is illegal exactly where its fields are not well formed. -/
theorem exists_decode_eq_error_iff {w : Word} : (∃ flaw, decode w = .error flaw) ↔ ¬ (fieldsOf w).wf = true := by
  rw [← exists_decode_eq_ok_iff]
  cases decode w <;> simp

/-! The opcode table -/

/-- A word is determined by its fields. -/
theorem fieldsOf_inj {v w : Word} : fieldsOf v = fieldsOf w ↔ v = w :=
  ⟨fun h => by rw [← pack_fieldsOf v, h, pack_fieldsOf], congrArg _⟩

/-- Masking a word masks each of its fields. -/
theorem fieldsOf_and (v w : Word) : fieldsOf (v &&& w) =
    ⟨(fieldsOf v).unit &&& (fieldsOf w).unit, (fieldsOf v).op &&& (fieldsOf w).op,
      (fieldsOf v).a &&& (fieldsOf w).a, (fieldsOf v).d &&& (fieldsOf w).d⟩ := by
  simp only [fieldsOf, BitVec.extractLsb'_and]

/-- What the rows of the table have in common: a row fixes UNIT and OP, and of A and D exactly the must-be-zero bits of
its command, to 0. -/
theorem opcodeTable_masks : ∀ r ∈ opcodeTable,
    (fieldsOf r.value).opKnown = true ∧
    fieldsOf r.value = ⟨(fieldsOf r.value).unit, (fieldsOf r.value).op, 0, 0⟩ ∧
    fieldsOf r.mask =
      ⟨0xF, 0xF, if (fieldsOf r.value).takesAddress then 0 else 0xFFFF, (fieldsOf r.value).zeroBitsOfD⟩ := by
  decide

/-- UNIT and OP determine the row. -/
theorem opcodeTable_unique : ∀ r ∈ opcodeTable, ∀ r' ∈ opcodeTable,
    (fieldsOf r.value).unit = (fieldsOf r'.value).unit → (fieldsOf r.value).op = (fieldsOf r'.value).op → r = r' := by
  decide

/-- A row of the table covers the words with well-formed fields of its UNIT and OP. -/
theorem covers_iff {r : OpcodeRow} (hr : r ∈ opcodeTable) {w : Word} : r.covers w = true ↔
    (fieldsOf w).unit = (fieldsOf r.value).unit ∧ (fieldsOf w).op = (fieldsOf r.value).op ∧ (fieldsOf w).wf = true := by
  obtain ⟨hop, hvalue, hmask⟩ := opcodeTable_masks r hr
  rw [OpcodeRow.covers, decide_eq_true_eq, ← fieldsOf_inj, fieldsOf_and, hmask, hvalue, wf_iff]
  generalize fieldsOf w = f at *
  generalize fieldsOf r.value = v at *
  obtain ⟨u, o, a, d⟩ := f
  obtain ⟨u', o', a', d'⟩ := v
  obtain ⟨rfl, rfl⟩ : a' = 0 ∧ d' = 0 := by simpa using hvalue
  have hF (x : BitVec 4) : x &&& 0xF = x := BitVec.and_allOnes
  have hFFFF (x : Addr) : x &&& 0xFFFF#16 = x := BitVec.and_allOnes
  have haddress : Fields.addressZeroed ⟨u, o, a, d⟩ = true ↔
      a &&& (if Fields.takesAddress ⟨u, o, 0, 0⟩ then 0 else 0xFFFF) = 0 := by
    by_cases hu : u.toNat ≤ 1 <;> simp [Fields.addressZeroed, Fields.takesAddress, hu, hFFFF]
  have hdata : Fields.dataZeroed ⟨u, o, a, d⟩ = true ↔ d &&& Fields.zeroBitsOfD ⟨u, o, 0, 0⟩ = 0 := by
    rw [Fields.dataZeroed, decide_eq_true_eq]
    rfl
  simp only [hF, Fields.mk.injEq]
  refine and_congr_right ?_
  rintro rfl
  refine and_congr_right ?_
  rintro rfl
  rw [haddress, hdata, and_iff_right (show Fields.opKnown ⟨u, o, a, d⟩ = true from hop)]

/-- Every command has a row of its mnemonic, UNIT and OP. -/
theorem exists_row (i : Instr) : Laws.TableRow.Statement i := by
  cases i with
  | busRead a => exact Laws.TableRow.busRead a
  | busPeek a => exact Laws.TableRow.busPeek a
  | busWrite a d => exact Laws.TableRow.busWrite a d
  | mapReadPrg a => exact Laws.TableRow.mapReadPrg a
  | mapPeekPrg a => exact Laws.TableRow.mapPeekPrg a
  | mapWritePrg a d => exact Laws.TableRow.mapWritePrg a d
  | mapReadChr a => exact Laws.TableRow.mapReadChr a
  | mapPeekChr a => exact Laws.TableRow.mapPeekChr a
  | mapWriteChr a d => exact Laws.TableRow.mapWriteChr a d
  | vecResolve m => exact Laws.TableRow.vecResolve m
  | vidStep => exact Laws.TableRow.vidStep
  | vidTake => exact Laws.TableRow.vidTake
  | vidRddot => exact Laws.TableRow.vidRddot
  | vidRdline => exact Laws.TableRow.vidRdline
  | vidPeekfr => exact Laws.TableRow.vidPeekfr
  | cartLoad => exact Laws.TableRow.cartLoad
  | cartUnload => exact Laws.TableRow.cartUnload
  | cartInfo f => exact Laws.TableRow.cartInfo f
  | sysFaults => exact Laws.TableRow.sysFaults

end Sys2Proof
end

section
/-! SUPPORT. What the statements of 30_encoding.md need of the machine: the header's bytes, the status of a response,
the device requests of a command, and VEC.FETCH. -/

namespace Sys2Proof.Machine

/-! The header (30_encoding.md R85–R87) -/

/-- The mapper id as a number: byte 7's high nibble over byte 6's. -/
theorem toNat_mapperIdOf (b6 b7 : Byte) : (mapperIdOf b6 b7).toNat = b7.toNat / 16 * 16 + b6.toNat / 16 := by
  have hhigh : ∀ b : Byte, (b &&& 0xF0#8).toNat = b.toNat / 16 * 2 ^ 4 := by decide
  have hlow : b6.toNat / 16 < 2 ^ 4 := by omega
  rw [mapperIdOf, BitVec.toNat_or, hhigh, BitVec.toNat_ushiftRight, Nat.shiftRight_eq_div_pow, ← Nat.shiftLeft_eq,
    ← Nat.shiftLeft_add_eq_or_of_lt hlow, Nat.shiftLeft_eq]

/-- A bit of a byte as a number. -/
theorem getLsbD_iff_toNat (b : Byte) (n : Nat) : b.getLsbD n = true ↔ b.toNat / 2 ^ n % 2 = 1 := by
  rw [BitVec.getLsbD, Nat.testBit_eq_decide_div_mod_eq, decide_eq_true_eq]

/-- Of byte 6 the parse reads bits 0, 2 and 7:4, of byte 7 bits 7:4. -/
theorem headerOf_congr {b b' : List Byte} (h4 : b.getD 4 0 = b'.getD 4 0) (h5 : b.getD 5 0 = b'.getD 5 0)
    (h6 : b.getD 6 0 &&& 0xF5 = b'.getD 6 0 &&& 0xF5) (h7 : b.getD 7 0 &&& 0xF0#8 = b'.getD 7 0 &&& 0xF0#8) :
    headerOf b = headerOf b' := by
  have hread : ∀ x : Byte, x.getLsbD 0 = (x &&& 0xF5).getLsbD 0 ∧ x.getLsbD 2 = (x &&& 0xF5).getLsbD 2 ∧
      x >>> 4 = (x &&& 0xF5) >>> 4 := by decide
  obtain ⟨hm, ht, hs⟩ := hread (b.getD 6 0)
  obtain ⟨hm', ht', hs'⟩ := hread (b'.getD 6 0)
  simp only [headerOf, mapperIdOf, hm, ht, hs, hm', ht', hs', h4, h5, h6, h7]

/-! The status of a response -/

/-- A command that does not end with OK ends with an error it can raise. -/
theorem Effect.rsp_cases {i : Instr} {s t : State} (e : Effect i s t) :
    (∃ d, t.rsp = some ⟨.ok, d⟩) ∨ ∃ err, Raises i s err ∧ t.rsp = some ⟨err.status, err.value⟩ := by
  cases e with
  | raise err h => exact .inr ⟨err, h, rfl⟩
  | _ => exact .inl ⟨_, rfl⟩

/-- The commands that need a cartridge, written out. -/
theorem NeedsCart.cases {i : Instr} (h : NeedsCart i) :
    (∃ a, i = .busRead a ∨ i = .busPeek a ∨ ∃ d, i = .busWrite a d) ∨
    (∃ a, i = .mapReadPrg a ∨ i = .mapPeekPrg a ∨ (∃ d, i = .mapWritePrg a d) ∨
      i = .mapReadChr a ∨ i = .mapPeekChr a ∨ ∃ d, i = .mapWriteChr a d) ∨
    ∃ f, f ≠ .flags ∧ i = .cartInfo f := by
  cases h with
  | bus a hb => cases hb <;> simp
  | info f hf => simpa using hf
  | _ => simp

/-! The device requests -/

/-- Only a BUS command with external devices makes a request, and it makes one at one port. -/
theorem Effect.requests_cases {i : Instr} {s t : State} (e : Effect i s t) :
    (t.ppuReq = s.ppuReq ∧ t.apuioReq = s.apuioReq) ∨
    (s.params.devices = .external ∧ (∃ a, OnBus a i) ∧ (t.ppuReq = s.ppuReq ∨ t.apuioReq = s.apuioReq)) := by
  cases e with
  | ppu a _ _ hb he => exact .inr ⟨he, ⟨a, hb⟩, .inr rfl⟩
  | apuIo a _ _ hb he => exact .inr ⟨he, ⟨a, hb⟩, .inl rfl⟩
  | _ => exact .inl ⟨rfl, rfl⟩

/-! VEC.FETCH -/

/-- A set that resolves does so to one of the three vectors. -/
theorem resolveVector_ok {p : Config.Params} {m : PendingSet} {v : Addr} (h : resolveVector p m = .ok v) :
    v = p.vecReset ∨ v = p.vecNmi ∨ v = p.vecIrqBrk := by
  simp only [resolveVector] at h
  split_ifs at h <;> cases h <;> simp

/-- Every non-empty set resolves. -/
theorem resolveVector_of_ne_zero (p : Config.Params) {m : PendingSet} (hm : m ≠ 0) :
    ∃ v, resolveVector p m = .ok v := by
  simp only [resolveVector, if_neg hm]
  split_ifs <;> exact ⟨_, rfl⟩

/-- A set that resolves is fetched by its resolution and the two reads at its vector. -/
theorem expandLine_vecFetch {p : Config.Params} {m : PendingSet} {v : Addr} (h : resolveVector p m = .ok v) :
    expandLine p (.vecFetch m) = .ok [.vecResolve m, .busRead v, .busRead (v + 1)] := by
  simp only [expandLine, h]

/-- The empty set has no vector to fetch. -/
theorem expandLine_vecFetch_zero (p : Config.Params) : expandLine p (.vecFetch 0) = .error .emptyFetch := rfl

/-- The low byte is the second half of an entry point. -/
theorem toNat_entryPoint (lo hi : Byte) : (entryPoint lo hi).toNat = 256 * hi.toNat + lo.toNat := by
  rw [entryPoint, BitVec.toNat_append, ← Nat.shiftLeft_add_eq_or_of_lt lo.isLt, Nat.shiftLeft_eq]
  omega

/-- With a whole one-bank image loaded, a bus read from 0xC000 on answers the byte that far into the bank. -/
theorem exec_busRead_oneBank {s : State} {c : Cart} {img : List Byte} {a : Addr} {base : Nat}
    (hc : s.cart = some c) (hl : loadImage s.params img = .ok c) (hcount : c.hdr.prgBankCount = 1)
    (hbase : base = 16 + if c.hdr.hasTrainer then 512 else 0) (hlen : base + 0x4000 ≤ img.length)
    (ha : 0xC000 ≤ a.toNat) :
    ∃ b, img[base + (a.toNat - 0xC000)]? = some b ∧ exec (.busRead a) s = .next (s.respond (zext16 b)) := by
  obtain ⟨-, -, -, hinit⟩ := loadImage_ok hl
  have hcontent : c.content = img := loadImage_content hl
  have hlow : c.lowStart = base := by rw [hbase, hinit]; exact lowStart_fixedBankInit _ _
  have hhigh : c.highStart = base := by
    rw [← hlow, hinit, highStart_fixedBankInit, if_neg, Nat.add_zero]
    rw [hinit] at hcount
    rw [show (headerOf (img.take 16)).prgBankCount = 1 from hcount]
    decide
  have hstart : fixedBankStart c a = base := by rw [fixedBankStart_eq (by omega), if_pos ha, hhigh]
  obtain ⟨b, hb, hend⟩ := finishRead_prg_inRange (s := s) (c := c) (a := a) (by omega)
    (by rw [hstart, hlow, hcount]; exact le_refl _) (by rw [hstart, hcontent]; exact hlen)
  refine ⟨b, ?_, by rw [exec_busRead hc, busRead_prg (by omega), hend]⟩
  rw [← hb, hcontent, hstart, show a.toNat % 0x4000 = a.toNat - 0xC000 by omega]

end Sys2Proof.Machine
end

section
/-! PROOFS of the statements about the encoding (30_encoding.md). -/

namespace Sys2Proof.Machine

/-- Settles O1: a command's fields are well formed, and the word's fields are the ones it was packed from. -/
theorem decodeOfEncodeReturnsEveryCommand : Obligations.DecodeOfEncodeReturnsEveryCommand :=
  fun i => ⟨wf_fields i, decode_eq_ok_iff.2 (fieldsOf_pack i.fields)⟩

/-- Settles O2: the word of a command as a number, with the fields of each of the 19 commands. -/
theorem encodingsAreTheOpcodeMap : Obligations.EncodingsAreTheOpcodeMap := by
  intro a d m f
  have hm : m.toNat % 256 = m.toNat := by omega
  have hf : f.index.toNat % 256 = f.index.toNat := by omega
  simp [toNat_encode, Instr.fields, hm, hf, Nat.mul_comm]

/-- Settles O3: a row covers the well-formed fields of its UNIT and OP, a command has the UNIT and OP of its mnemonic's
row, and no two rows share them. -/
theorem decoderAgreesWithTheOpcodeTable : Obligations.DecoderAgreesWithTheOpcodeTable := by
  constructor
  · intro w i h
    rw [decode_eq_ok_iff] at h
    obtain ⟨r, hr, hmn, hunit, hop⟩ := exists_row i
    exact ⟨r, hr, (covers_iff hr).2 (h ▸ ⟨hunit.symm, hop.symm, wf_fields i⟩), hmn⟩
  · intro w r hr hcov
    obtain ⟨hu, ho, hwf⟩ := (covers_iff hr).1 hcov
    obtain ⟨i, hi⟩ := exists_decode_eq_ok_iff.2 hwf
    obtain ⟨r', hr', hmn, hunit, hop⟩ := exists_row i
    rw [decode_eq_ok_iff.1 hi] at hu ho
    obtain rfl := opcodeTable_unique r' hr' r hr (hunit.trans hu) (hop.trans ho)
    exact ⟨i, hi, hmn.symm⟩

/-- Settles O4: a word is illegal where its fields are not well formed, read as numbers unit by unit; a step on it
raises IllegalCommand. -/
theorem reservedEncodingsAreExactlyTheIllegalWords : Obligations.ReservedEncodingsAreExactlyTheIllegalWords := by
  intro w unit op a d hunit hop ha hd
  constructor
  · rw [exists_decode_eq_error_iff, wf_iff, opKnown_iff, addressZeroed_iff, dataZeroed_iff, toNat_fieldsOf_unit,
      toNat_fieldsOf_op, toNat_fieldsOf_a, toNat_fieldsOf_d, ← hunit, ← hop, ← ha, ← hd]
    clear hunit hop ha hd
    by_cases hu : 6 ≤ unit
    · omega
    · interval_cases unit <;> simp <;> omega
  · rintro flaw hflaw s inp rest hin rfl
    exact ⟨_, step_error hin hflaw, _, rfl, rfl⟩

/-- Settles O5, by evaluation of the twelve words. -/
theorem knownWordsDecode : Obligations.KnownWordsDecode := by
  unfold Obligations.KnownWordsDecode
  decide

/-- Settles O24: the first eight bytes give the magic that is compared and the five fields. -/
theorem headerParseFollowsTheLayout : Obligations.HeaderParseFollowsTheLayout := by
  refine fun g b => ⟨parseHeader_wrongLength, fun hlen b0 b1 b2 b3 b4 b5 b6 b7 h8 => ?_⟩
  have htake : b.take 4 = [b0, b1, b2, b3] := by
    rw [show 4 = min 4 8 from rfl, ← List.take_take, h8]
    rfl
  have hget (n : Nat) (hn : n < 8) : b.getD n 0 = [b0, b1, b2, b3, b4, b5, b6, b7].getD n 0 := by
    rw [← h8]
    simp [List.getD_eq_getElem?_getD, List.getElem?_take_of_lt hn]
  constructor
  · intro hne
    refine parseHeader_wrongMagic hlen ?_
    simp only [htake, magicBytes, ne_eq, List.cons.injEq, and_true]
    tauto
  · rintro ⟨rfl, rfl, rfl, rfl⟩
    refine ⟨_, parseHeader_ok hlen htake, hget 4 (by decide), hget 5 (by decide), ?_, ?_, ?_⟩
    · rw [headerOf, hget 6 (by decide), ← Nat.div_one b6.toNat]
      exact getLsbD_iff_toNat b6 0
    · rw [headerOf, hget 6 (by decide)]
      exact getLsbD_iff_toNat b6 2
    · rw [headerOf, hget 6 (by decide), hget 7 (by decide)]
      exact toNat_mapperIdOf b6 b7

/-- Settles O25: the magic and every bit the fields are read from are the same in both headers. -/
theorem unnamedHeaderBitsAreIgnored : Obligations.UnnamedHeaderBitsAreIgnored := by
  intro g b b' b6 b6' b7 b7' hlen hlen' htake h6 h6' heq6 h7 h7' heq7
  have hmagic : b.take 4 = b'.take 4 := by simpa [List.take_take] using congrArg (List.take 4) htake
  have hget (n : Nat) (hn : n < 6) : b.getD n 0 = b'.getD n 0 := by
    simpa [List.getD_eq_getElem?_getD, List.getElem?_take_of_lt hn] using congrArg (·.getD n 0) htake
  have hhdr : headerOf b = headerOf b' :=
    headerOf_congr (hget 4 (by decide)) (hget 5 (by decide)) (by simpa [h6, h6'] using heq6)
      (by simpa [h7, h7'] using heq7)
  simp only [parseHeader, hlen, hlen', hmagic, hhdr]

/-- Settles O40: a status other than OK is that of an error the command raises, each with its reason. -/
theorem eachStatusComesFromItsCommands : Obligations.EachStatusComesFromItsCommands := by
  refine ⟨by decide, fun i s t r hx hr => ?_⟩
  rcases (effect_of_exec hx).rsp_cases with ⟨d, hok⟩ | ⟨err, hraise, herr⟩
  · obtain rfl := Option.some.inj (hr.symm.trans hok)
    simp
  · obtain rfl := Option.some.inj (hr.symm.trans herr)
    cases hraise with
    | noCartridge hn hc => simp [BlockError.status, BlockError.value, hc, hn.cases]
    | outOfRange a hc h8 hi => simpa [BlockError.status, BlockError.value, hc, h8] using hi
    | chr a hc hi => simpa [BlockError.status, BlockError.value, hc] using hi
    | noInterrupt hi => simp [BlockError.status, BlockError.value, hi]
    | load _ hi hl =>
      rcases loadImage_error hl with ⟨hlen, rfl⟩ | ⟨hlen, rfl⟩ | ⟨hdr, hp, hlook, rfl⟩
      · simp [BlockError.status, BlockError.value, hi, hlen]
      · simp [BlockError.status, BlockError.value, hi, hlen]
      · simp [BlockError.status, BlockError.value, hi, hp, hlook, zext16]

/-- Settles O45: a step begins with both ports idle, and its command makes at most one request; an illegal word
makes none. -/
theorem atMostOneDeviceRequest : Obligations.AtMostOneDeviceRequest := by
  intro s t h
  obtain ⟨inp, rest, hin, ⟨i, hi, hx⟩ | ⟨_, -, rfl⟩⟩ := step_cases h
  · rcases (effect_of_exec hx).requests_cases with ⟨hp, hq⟩ | ⟨he, ⟨a, hb⟩, hone⟩
    · have hidle : t.ppuReq = .idle ∧ t.apuioReq = .idle := ⟨hp, hq⟩
      exact ⟨.inl hp, fun _ => hidle, fun hne => by simp [hidle] at hne⟩
    · rw [State.accept_params] at he
      refine ⟨hone, fun hn => by simp [he] at hn, fun _ => ⟨inp, rest, hin, a, ?_⟩⟩
      rw [hi]
      cases hb <;> simp
  · exact ⟨.inl rfl, fun _ => ⟨rfl, rfl⟩, by simp⟩

/-- Settles O52: each default vector and its successor lie from 0xC000 on, where the two reads answer the
bytes of the one bank. -/
theorem vecFetchReadsTheEntryPoint : Obligations.VecFetchReadsTheEntryPoint := by
  intro s img c m v base hp hc hl hcount hbase hlen hv
  have hrange : 0xFFFA ≤ v.toNat ∧ v.toNat ≤ 0xFFFE := by
    rw [hp] at hv
    rcases resolveVector_ok hv with rfl | rfl | rfl <;> decide
  have hsucc : (v + 1).toNat = v.toNat + 1 := BitVec.toNat_add_of_lt (by simp; omega)
  have hresolve : exec (.vecResolve m) s = .next (s.respond v) := by
    simp only [exec, execVecResolve, hv]
  obtain ⟨lo, hlo, hread⟩ := exec_busRead_oneBank (s := s.respond v) (a := v) hc hl hcount hbase hlen (by omega)
  obtain ⟨hi, hhi, hread'⟩ := exec_busRead_oneBank (s := (s.respond v).respond (zext16 lo)) (a := v + 1)
    hc hl hcount hbase hlen (by omega)
  rw [show base + (v.toNat - 0xC000) = base + v.toNat - 0xC000 by omega] at hlo
  rw [hsucc, show base + (v.toNat + 1 - 0xC000) = base + v.toNat - 0xC000 + 1 by omega] at hhi
  exact ⟨_, _, _, _, _, _, lo, hi, expandLine_vecFetch hv, hresolve, hread, hread', rfl, rfl, rfl, hlo, hhi,
    toNat_entryPoint lo hi⟩

/-- Settles O51: every line expands by its definition but a VEC.FETCH, which does where its set resolves. -/
theorem pseudoInstructionsExpand : Obligations.PseudoInstructionsExpand := by
  intro p
  have hframe : expandLine p .vidFrame = .ok (List.replicate 89342 .vidStep) := rfl
  refine ⟨fun n => rfl, hframe, fun m hm => ?_, expandLine_vecFetch_zero p, fun l => ?_⟩
  · obtain ⟨v, hv⟩ := resolveVector_of_ne_zero p hm
    exact ⟨v, hv, expandLine_vecFetch hv⟩
  · cases l with
    | vecFetch m =>
      rw [show (Line.vecFetch m).wf = true ↔ m ≠ 0 from decide_eq_true_iff]
      by_cases hm : m = 0
      · simp only [hm, expandLine_vecFetch_zero, ne_eq, not_true_eq_false, reduceCtorEq, exists_false]
      · obtain ⟨v, hv⟩ := resolveVector_of_ne_zero p hm
        exact iff_of_true hm ⟨_, expandLine_vecFetch hv⟩
    | vidFrame => exact iff_of_true rfl ⟨_, hframe⟩
    | command i => exact iff_of_true rfl ⟨_, rfl⟩
    | vidStepN n => exact iff_of_true rfl ⟨_, rfl⟩

end Sys2Proof.Machine
end

section
/-! SUPPORT. The CART commands said once: CART.LOAD by what its image loads to, CART.INFO with a cartridge, and the load
of an image by its header. -/

namespace Sys2Proof.Machine

/-! The load of an image by its header (41_cartridge.md R104, 42_mapper.md R122) -/

section
variable {p : Config.Params} {img : List Byte}

/-- An image whose header does not parse does not load. -/
theorem loadImage_of_parse_error {e : BlockError} (h : parseHeader p.headerMagic (img.take 16) = .error e) :
    loadImage p img = .error e := by
  simp only [loadImage, headerSize, h]

/-- An image whose header parses is what its mapper id's kind makes of it. -/
theorem loadImage_of_parse_ok {hdr : Header} (h : parseHeader p.headerMagic (img.take 16) = .ok hdr) :
    loadImage p img = createCart p.registry hdr.mapperId hdr img := by
  simp only [loadImage, headerSize, h]

/-- An image whose mapper id nobody registered does not load. -/
theorem loadImage_unregistered {hdr : Header} (h : parseHeader p.headerMagic (img.take 16) = .ok hdr)
    (hk : registryLookup p.registry hdr.mapperId = none) :
    loadImage p img = .error (.unsupportedMapper hdr.mapperId) := by
  simp only [loadImage_of_parse_ok h, createCart, hk]

/-- An image whose mapper id is FixedBank's loads as a FixedBank cartridge. -/
theorem loadImage_fixedBank {hdr : Header} (h : parseHeader p.headerMagic (img.take 16) = .ok hdr)
    (hk : registryLookup p.registry hdr.mapperId = some .fixedBank) :
    loadImage p img = .ok (fixedBankInit hdr img) := by
  simp only [loadImage_of_parse_ok h, createCart, hk]

/-- A failing load is an ordinary failure, which FAULTS does not log. -/
theorem loadImage_error_unlogged {e : BlockError} (h : loadImage p img = .error e) : e.status.logged = false := by
  rcases loadImage_error h with ⟨-, rfl⟩ | ⟨-, rfl⟩ | ⟨_, -, -, rfl⟩ <;> rfl

end

/-! The commands (41_cartridge.md R104–R107) -/

section
variable {s : State}

/-- CART.LOAD of an image that does not load changes the response alone (R105). -/
theorem exec_cartLoad_error {e : BlockError} (h : loadImage s.params s.ports.img = .error e) :
    exec .cartLoad s = .next { s with rsp := some ⟨e.status, e.value⟩ } := by
  simp only [exec, execCartLoad, h, State.raise, logFault_unlogged _ _ (loadImage_error_unlogged h)]

/-- CART.LOAD of an image that loads puts its cartridge in the slot. -/
theorem exec_cartLoad_ok {c : Cart} (h : loadImage s.params s.ports.img = .ok c) :
    exec .cartLoad s = .next { s with cart := some c, rsp := some ⟨.ok, 0⟩ } := by
  simp only [exec, execCartLoad, h, State.respond]

/-- CART.LOAD logs nothing, whatever the image. -/
theorem faults_of_exec_cartLoad {t : State} (h : exec .cartLoad s = .next t) : t.faults = s.faults := by
  cases hl : loadImage s.params s.ports.img with
  | error e =>
    rw [exec_cartLoad_error hl] at h
    cases h
    rfl
  | ok c =>
    rw [exec_cartLoad_ok hl] at h
    cases h
    rfl

/-- With a cartridge CART.INFO answers the field of its header. -/
theorem exec_cartInfo_some {c : Cart} (hc : s.cart = some c) (f : InfoField) :
    exec (.cartInfo f) s = .next (s.respond (infoWord c.hdr f)) := by
  simp only [exec, execCartInfo, hc]

/-- With no cartridge CART.INFO 0 answers 0. -/
theorem exec_cartInfo_flags_none (hc : s.cart = none) : exec (.cartInfo .flags) s = .next (s.respond 0) := by
  simp only [exec, execCartInfo, hc, if_true]

end

/-- A byte result as a number. -/
theorem toNat_zext16 (b : Byte) : (zext16 b).toNat = b.toNat := BitVec.toNat_setWidth_of_le (by decide)

/-- The word of CART.INFO 0 as a number: bit 0 is 1, bit 1 the trainer, bit 2 the mirroring. -/
theorem toNat_infoFlags (h : Header) :
    (infoFlags h).toNat = 1 + (if h.hasTrainer then 2 else 0) + (if h.mirroringMode then 4 else 0) := by
  rw [infoFlags]
  cases h.hasTrainer <;> cases h.mirroringMode <;> rfl

end Sys2Proof.Machine
end

section
/-! PROOFS of the statements about the cartridge commands (41_cartridge.md). -/

namespace Sys2Proof.Machine

/-- Settles O26: the parse of the first sixteen bytes (O24) decides whether the image loads, and then its mapper id. -/
theorem cartLoadResult : Obligations.CartLoadResult := by
  rintro s img rfl
  refine ⟨rfl, fun hlt => ?_, fun b0 b1 b2 b3 b4 b5 b6 b7 hlen h8 => ?_⟩
  · have hne : (s.ports.img.take 16).length ≠ 16 := by rw [List.length_take]; omega
    exact exec_cartLoad_error (loadImage_of_parse_error (parseHeader_wrongLength hne))
  · have htake : (s.ports.img.take 16).take 8 = [b0, b1, b2, b3, b4, b5, b6, b7] := by
      rw [List.take_take, ← h8]
      rfl
    obtain ⟨hbad, hgood⟩ := (headerParseFollowsTheLayout s.params.headerMagic (s.ports.img.take 16)).2
      (List.length_take_of_le hlen) b0 b1 b2 b3 b4 b5 b6 b7 htake
    refine ⟨fun hne => exec_cartLoad_error (loadImage_of_parse_error (hbad hne)), fun id hid h0 h1 h2 h3 => ?_⟩
    obtain ⟨hdr, hparse, rfl, rfl, hmirroring, htrainer, hmapper⟩ := hgood ⟨h0, h1, h2, h3⟩
    obtain rfl : hdr.mapperId = id := BitVec.eq_of_toNat_eq (hmapper.trans hid.symm)
    exact ⟨fun hk => exec_cartLoad_error (loadImage_unregistered hparse hk), fun hk =>
      ⟨_, exec_cartLoad_ok (loadImage_fixedBank hparse hk), rfl, rfl, rfl, rfl, rfl, hmirroring, htrainer, rfl, rfl⟩⟩

/-- Settles O28: the field of the loaded header, index by index; with none, every index but 0 needs a cartridge. -/
theorem cartInfoResult : Obligations.CartInfoResult := by
  refine fun s => ⟨fun f => by cases f <;> rfl, fun hc => ⟨exec_cartInfo_flags_none hc, fun f hf => ?_⟩,
    fun c hc f => ⟨infoWord c.hdr f, exec_cartInfo_some hc f, ?_⟩⟩
  · have hneeds : f ≠ .flags := by
      rintro rfl
      exact hf rfl
    exact exec_of_cart_none (.info f hneeds) hc
  · cases f with
    | flags => exact ⟨fun _ => toNat_infoFlags c.hdr, nofun, nofun, nofun⟩
    | prgBankCount => exact ⟨nofun, fun _ => toNat_zext16 _, nofun, nofun⟩
    | chrBankCount => exact ⟨nofun, nofun, fun _ => toNat_zext16 _, nofun⟩
    | mapperId => exact ⟨nofun, nofun, nofun, fun _ => toNat_zext16 _⟩

/-- Settles O49: what any effect leaves, for four commands that are not on the bus; a load logs nothing. -/
theorem frameOfTimingAndCartCommands : Obligations.FrameOfTimingAndCartCommands := by
  intro s t i hi h
  have e := effect_of_exec h
  obtain ⟨hparams, hports, hinputs⟩ := e.environment_eq
  have hbus : ∀ a, ¬ OnBus a i := by fin_cases hi <;> exact nofun
  obtain ⟨hppu, hapuio⟩ := e.requests_eq hbus
  have hram : t.ram = s.ram := e.ram_cases.resolve_right
    fun ⟨a, v, hw, _⟩ => hbus a (hw ▸ .write v)
  have hfaults : t.faults = s.faults := by
    fin_cases hi
    · cases h; rfl
    · cases h; rfl
    · exact faults_of_exec_cartLoad h
    · cases h; rfl
  refine ⟨fun j => by rw [hram], hfaults, hparams, hports, hinputs, hppu, hapuio, fun hvid => ?_, fun hcart => ?_, ?_⟩
  · exact (loadedCartridgeIsImmutable i s t h).1 (by rcases hvid with rfl | rfl <;> rfl)
  · rcases hcart with rfl | rfl <;> exact e.vid_eq nofun nofun
  · rintro rfl
    cases h
    exact ⟨rfl, rfl⟩

/-- Settles O27: the slot is empty afterwards, and BUS.READ needs a cartridge. -/
theorem cartUnloadResult : Obligations.CartUnloadResult :=
  fun _ => ⟨rfl, rfl, fun a => ⟨_, _, rfl, exec_of_cart_none (.bus a .read) rfl, rfl⟩⟩

end Sys2Proof.Machine
end

section
/-! SUPPORT. The mapper behind the bus: registration (42_mapper.md R121), where the banks of a loaded image begin
(R123), what a PRG read depends on (R125), and the MAP commands that FixedBank ignores or refuses (R127, R134). -/

namespace Sys2Proof.Machine

/-! The registry -/

section
variable {r : Config.Registry} {id : Byte}

/-- An id that is unknown can be registered. -/
theorem register_of_unknown (h : registryLookup r id = none) (k : Config.MapperKind) :
    register r id k = some (registrySet r id.toNat k) := by
  simp only [register, h]

/-- An id that is known is refused, whatever the kind. -/
theorem register_of_known {k : Config.MapperKind} (h : registryLookup r id = some k) (k' : Config.MapperKind) :
    register r id k' = none := by
  simp only [register, h]

end

/-! The cartridge of a loaded image -/

section
variable {p : Config.Params} {img img' : List Byte} {c c' : Cart} {a : Addr}

/-- The low bank of a loaded image follows its header and trainer. -/
theorem lowStart_of_loadImage (hl : loadImage p img = .ok c) :
    c.lowStart = 16 + if c.hdr.hasTrainer then 512 else 0 := by
  obtain ⟨-, -, -, rfl⟩ := loadImage_ok hl
  exact lowStart_fixedBankInit _ _

/-- FixedBank selects the second bank of a loaded image from 0xC000 on, if there is one, and else the first. -/
theorem fixedBankStart_of_loadImage (hl : loadImage p img = .ok c) (h : 0x8000 ≤ a.toNat) :
    fixedBankStart c a =
      c.lowStart + if 0xC000 ≤ a.toNat ∧ 2 ≤ c.hdr.prgBankCount.toNat then 0x4000 else 0 := by
  obtain ⟨-, -, -, rfl⟩ := loadImage_ok hl
  rw [fixedBankStart_eq h, highStart_fixedBankInit, ite_and]
  split <;> rfl

/-- Images that agree in their first sixteen bytes load with one header and with the same bank starts. -/
theorem hdr_and_starts_of_loadImage (hl : loadImage p img = .ok c) (hl' : loadImage p img' = .ok c')
    (h : ∀ k < 16, img[k]? = img'[k]?) :
    c'.hdr = c.hdr ∧ c'.lowStart = c.lowStart ∧ c'.highStart = c.highStart := by
  have htake : img'.take 16 = img.take 16 := List.ext_getElem? fun k => by
    simp only [List.getElem?_take]
    split
    · next hk => exact (h k hk).symm
    · rfl
  obtain ⟨-, -, -, rfl⟩ := loadImage_ok hl
  obtain ⟨-, -, -, rfl⟩ := loadImage_ok hl'
  rw [htake]
  exact ⟨rfl, rfl, rfl⟩

end

/-! What a PRG read answers -/

section
variable {s : State} {c c' : Cart} {a : Addr}

/-- In the PRG window a bus read of a bank that is wholly there answers a byte of the content. -/
theorem exec_busRead_prg_inRange (hc : s.cart = some c) (h : 0x8000 ≤ a.toNat)
    (h1 : fixedBankStart c a + 0x4000 ≤ c.lowStart + c.hdr.prgBankCount.toNat * 0x4000)
    (h2 : fixedBankStart c a + 0x4000 ≤ c.content.length) :
    ∃ b, c.content[fixedBankStart c a + a.toNat % 0x4000]? = some b ∧
      exec (.busRead a) s = .next (s.respond (zext16 b)) := by
  obtain ⟨b, hb, hend⟩ := finishRead_prg_inRange (s := s) h h1 h2
  exact ⟨b, hb, by rw [exec_busRead hc, busRead_prg h, hend]⟩

/-- A PRG read depends on the header, the bank starts, the content's length and the one byte it answers. -/
theorem readPrg_congr (hhdr : c'.hdr = c.hdr) (hlow : c'.lowStart = c.lowStart) (hhigh : c'.highStart = c.highStart)
    (hlen : c'.content.length = c.content.length)
    (hbyte : 0x8000 ≤ a.toNat → c'.content[fixedBankStart c a + a.toNat % 0x4000]? =
      c.content[fixedBankStart c a + a.toNat % 0x4000]?) :
    Mapper.readPrg c' a = Mapper.readPrg c a := by
  by_cases h : a.toNat < 0x8000
  · rw [readPrg_below h, readPrg_below h]
  have h : 0x8000 ≤ a.toNat := by omega
  have hstart : fixedBankStart c' a = fixedBankStart c a := by simp only [fixedBankStart, hlow, hhigh]
  by_cases hin : fixedBankStart c a + 0x4000 ≤ c.lowStart + c.hdr.prgBankCount.toNat * 0x4000 ∧
      fixedBankStart c a + 0x4000 ≤ c.content.length
  · obtain ⟨h1, h2⟩ := hin
    rw [readPrg_inRange h h1 h2, readPrg_inRange h (by rwa [hstart, hlow, hhdr]) (by rwa [hstart, hlen]), hstart,
      List.getD_eq_getElem?_getD, List.getD_eq_getElem?_getD, hbyte h]
  · have hout : fixedBankStart c a + 0x4000 > c.lowStart + c.hdr.prgBankCount.toNat * 0x4000 ∨
        fixedBankStart c a + 0x4000 > c.content.length := by omega
    rw [readPrg_outOfRange h hout, readPrg_outOfRange h (by rwa [hstart, hlow, hhdr, hlen])]

end

/-! The commands FixedBank ignores or refuses -/

section
variable {s : State} {c : Cart} (hc : s.cart = some c)
include hc

/-- MAP.WRITEPRG leaves the cartridge in the slot as it was. -/
theorem exec_mapWritePrg (a : Addr) (d : Byte) : exec (.mapWritePrg a d) s = .next (s.respond 0) := by
  have hwrite : { s with cart := some (Mapper.writePrg c a d) } = s := by
    rw [show Mapper.writePrg c a d = c from rfl, ← hc]
  refine congrArg _ ((withCart_some hc).trans ?_)
  rw [hwrite]

theorem exec_mapReadChr (a : Addr) : exec (.mapReadChr a) s = .next (s.raise (.chrNotSupported a)) :=
  congrArg _ (withCart_some hc)

theorem exec_mapPeekChr (a : Addr) : exec (.mapPeekChr a) s = .next (s.raise (.chrNotSupported a)) :=
  congrArg _ (withCart_some hc)

theorem exec_mapWriteChr (a : Addr) (d : Byte) :
    exec (.mapWriteChr a d) s = .next (s.raise (.chrNotSupported a)) :=
  congrArg _ (withCart_some hc)

end

end Sys2Proof.Machine
end

section
/-! PROOFS of the statements about the mapper (42_mapper.md). -/

namespace Sys2Proof.Machine

/-- Settles O18: a peek is the read, and the read falls below the window, in a whole bank or in one that is not. -/
theorem mapPrgReadAndPeekResult : Obligations.MapPrgReadAndPeekResult := by
  intro s a
  obtain ⟨-, -, -, hread, hpeek, -⟩ := encodingsAreTheOpcodeMap a 0 0 .flags
  refine ⟨hread, hpeek, fun i hi => ?_⟩
  have hexec : exec i s = exec (.mapReadPrg a) s := by
    fin_cases hi
    · rfl
    · exact exec_mapPeekPrg a s
  rw [hexec]
  refine ⟨exec_of_cart_none (.readPrg a), fun c start hc hstart => ?_⟩
  rw [exec_mapReadPrg hc]
  refine ⟨fun h => ?_, fun h h1 h2 => ?_, fun h hout => ?_⟩
  · rw [readPrg_below h]
    rfl
  · rw [← fixedBankStart_eq h] at hstart
    subst hstart
    obtain ⟨b, hb, hend⟩ := finishRead_prg_inRange (s := s) h h1 h2
    exact ⟨b, hb, congrArg _ hend⟩
  · rw [← fixedBankStart_eq h] at hstart
    subst hstart
    exact congrArg _ (finishRead_prg_outOfRange h hout)

/-- Settles O21: with one bank both addresses select it, at one offset. -/
theorem oneBankImageIsMirrored : Obligations.OneBankImageIsMirrored := by
  intro s img c a hc hl hcount hlen ha
  have hcontent : c.content = img := loadImage_content hl
  have hread (x : Addr) (hx : 0x8000 ≤ x.toNat) : ∃ b, img[c.lowStart + x.toNat % 0x4000]? = some b ∧
      exec (.busRead x) s = .next (s.respond (zext16 b)) := by
    have hstart : fixedBankStart c x = c.lowStart := by
      rw [fixedBankStart_of_loadImage hl hx, hcount]
      simp
    rw [← lowStart_of_loadImage hl, ← hstart, ← hcontent] at hlen
    rw [← hstart, ← hcontent]
    exact exec_busRead_prg_inRange hc hx (by rw [hstart, hcount]; exact le_refl _) hlen
  obtain ⟨hflip, hoffset⟩ := flip_bit14 ha
  obtain ⟨b, hb, hexec⟩ := hread a ha
  obtain ⟨b', hb', hexec'⟩ := hread (a ^^^ 0x4000) hflip
  obtain rfl : b = b' := by
    rw [hoffset, hb] at hb'
    exact Option.some.inj hb'
  exact ⟨_, _, hexec, hexec', rfl⟩

/-- Settles O22: with two banks the selected bank and the offset in it add up to the distance from 0x8000. -/
theorem twoBankImageIsFlat : Obligations.TwoBankImageIsFlat := by
  intro s img c a k base hc hl hcount hbase hlen ha
  have hcontent : c.content = img := loadImage_content hl
  have hlow : c.lowStart = base := (lowStart_of_loadImage hl).trans hbase.symm
  have h8 : 0x8000 ≤ a.toNat := by omega
  have hstart : fixedBankStart c a = base + if 0xC000 ≤ a.toNat then 0x4000 else 0 := by
    rw [fixedBankStart_of_loadImage hl h8, hlow]
    simp only [hcount, and_true]
  have hbank : fixedBankStart c a ≤ base + 0x4000 := by split at hstart <;> omega
  have hindex : fixedBankStart c a + a.toNat % 0x4000 = base + k := by
    have := a.isLt
    split at hstart <;> omega
  obtain ⟨b, hb, hexec⟩ := exec_busRead_prg_inRange hc h8 (by omega) (by rw [hcontent]; omega)
  rw [hcontent, hindex] at hb
  exact ⟨b, _, hb, hexec, rfl⟩

/-- Settles O23: one header gives one pair of bank starts, and the byte read lies in the two banks that agree. -/
theorem onlyTheFirstTwoBanksAreRead : Obligations.OnlyTheFirstTwoBanksAreRead := by
  intro p img img' c c' base a hl hl' hlen hheader hbase hbanks
  obtain ⟨hhdr, hlow, hhigh⟩ := hdr_and_starts_of_loadImage hl hl' hheader
  have hcontent : c.content = img := loadImage_content hl
  have hcontent' : c'.content = img' := loadImage_content hl'
  have hread : Mapper.readPrg c' a = Mapper.readPrg c a := by
    refine readPrg_congr hhdr hlow hhigh (by rw [hcontent, hcontent', hlen]) fun h => ?_
    have hstart := fixedBankStart_of_loadImage hl h
    rw [lowStart_of_loadImage hl, ← hbase] at hstart
    rw [hcontent, hcontent']
    exact (hbanks _ (by omega) (by split at hstart <;> omega)).symm
  rw [peekPrg_eq_readPrg, peekPrg_eq_readPrg]
  exact ⟨hread.symm, hread.symm⟩

/-- Settles O50: registering sets the id's entry alone; the default registry is that of id 0 in the empty one. -/
theorem registeringAnIdTwiceIsRefused : Obligations.RegisteringAnIdTwiceIsRefused := by
  refine ⟨fun r id k h => ?_, rfl, fun id hid => ?_⟩
  · have hknown : registryLookup (registrySet r id.toNat k) id = some k := by rw [registryLookup_set, if_pos rfl]
    exact ⟨_, register_of_unknown h k, hknown, fun id' hne => by rw [registryLookup_set, if_neg hne],
      register_of_known hknown⟩
  · have hne : id ≠ 0 := by
      rintro rfl
      exact hid rfl
    rw [show Config.defaults.registry = registrySet [] (0 : Byte).toNat .fixedBank from rfl, registryLookup_set,
      if_neg hne]
    rfl

/-- Settles O19: the write answers OK with the slot as it was. -/
theorem mapWritePrgHasNoEffect : Obligations.MapWritePrgHasNoEffect := by
  intro s a d
  obtain ⟨-, -, -, -, -, hcode, -⟩ := encodingsAreTheOpcodeMap a d 0 .flags
  exact ⟨hcode, exec_of_cart_none (.writePrg a d), fun c hc => exec_mapWritePrg hc a d⟩

/-- Settles O20: each of the three needs a cartridge, and raises ChrNotSupported with one. -/
theorem chrCommandsFailLoudly : Obligations.ChrCommandsFailLoudly := by
  intro s a d
  obtain ⟨-, -, -, -, -, -, hread, hpeek, hwrite, -⟩ := encodingsAreTheOpcodeMap a d 0 .flags
  refine ⟨hread, hpeek, hwrite, fun i hi => ?_⟩
  fin_cases hi
  · exact ⟨exec_of_cart_none (.readChr a), fun c hc => exec_mapReadChr hc a⟩
  · exact ⟨exec_of_cart_none (.peekChr a), fun c hc => exec_mapPeekChr hc a⟩
  · exact ⟨exec_of_cart_none (.writeChr a d), fun c hc => exec_mapWriteChr hc a d⟩

end Sys2Proof.Machine
end

section
/-! SUPPORT. The resolver said once: its answer by the mask's number (44_vector.md R150), and VEC.RESOLVE by the
resolver's answer. -/

namespace Sys2Proof.Machine

/-! The two bits that decide (30_encoding.md R77) -/

/-- Reset is the lowest bit of the mask. -/
theorem pendingReset_iff {m : PendingSet} : PendingSet.reset m = true ↔ m.toNat % 2 = 1 := by
  rw [PendingSet.reset, BitVec.getLsbD, Nat.testBit_zero, decide_eq_true_eq]

/-- NMI is the bit above it. -/
theorem pendingNmi_iff {m : PendingSet} : PendingSet.nmi m = true ↔ m.toNat / 2 % 2 = 1 := by
  rw [PendingSet.nmi, BitVec.getLsbD, Nat.testBit_eq_decide_div_mod_eq, decide_eq_true_eq, pow_one]

/-! The resolver by the mask's number -/

section
variable (p : Config.Params) {m : PendingSet}

theorem resolveVector_zero : resolveVector p 0 = .error .noInterruptPending := rfl

/-- Reset wins over every other interrupt. -/
theorem resolveVector_reset (h : m.toNat % 2 = 1) : resolveVector p m = .ok p.vecReset := by
  have hne : m ≠ 0 := by
    rintro rfl
    exact absurd h (by decide)
  rw [resolveVector, if_neg hne, if_pos (pendingReset_iff.2 h)]

/-- NMI wins where Reset is not pending. -/
theorem resolveVector_nmi (h : m.toNat % 4 = 2) : resolveVector p m = .ok p.vecNmi := by
  have hne : m ≠ 0 := by
    rintro rfl
    exact absurd h (by decide)
  rw [resolveVector, if_neg hne, if_neg (pendingReset_iff.not.2 (by omega)), if_pos (pendingNmi_iff.2 (by omega))]

/-- IRQ and BRK share the vector that is left, alone or together. -/
theorem resolveVector_irqBrk (h : m.toNat % 4 = 0) (hne : m ≠ 0) : resolveVector p m = .ok p.vecIrqBrk := by
  rw [resolveVector, if_neg hne, if_neg (pendingReset_iff.not.2 (by omega)),
    if_neg (pendingNmi_iff.not.2 (by omega))]

end

/-! The command -/

section
variable {s : State} {m : PendingSet}

/-- VEC.RESOLVE answers the vector its set resolves to. -/
theorem exec_vecResolve_of_ok {v : Addr} (h : resolveVector s.params m = .ok v) :
    exec (.vecResolve m) s = .next (s.respond v) := by
  simp only [exec, execVecResolve, h]

/-- VEC.RESOLVE raises the error its set fails with. -/
theorem exec_vecResolve_of_error {e : BlockError} (h : resolveVector s.params m = .error e) :
    exec (.vecResolve m) s = .next (s.raise e) := by
  simp only [exec, execVecResolve, h]

end

end Sys2Proof.Machine
end

section
/-! PROOFS of the statements about the vector resolver (44_vector.md). -/

namespace Sys2Proof.Machine

/-- Settles O29: VEC.RESOLVE does what its set resolves to, in each of the four classes of masks. -/
theorem vecResolveResult : Obligations.VecResolveResult := by
  intro s m
  obtain ⟨-, -, -, -, -, -, -, -, -, hcode, -⟩ := encodingsAreTheOpcodeMap 0 0 m .flags
  refine ⟨hcode, fun h => ?_, fun h => exec_vecResolve_of_ok (resolveVector_reset _ h),
    fun h => exec_vecResolve_of_ok (resolveVector_nmi _ h),
    fun h hne => exec_vecResolve_of_ok (resolveVector_irqBrk _ h (mt (congrArg BitVec.toNat) hne))⟩
  obtain rfl : m = 0 := BitVec.eq_of_toNat_eq h
  exact exec_vecResolve_of_error (resolveVector_zero _)

/-- Settles O30: each row's masks are of one class of O29, and the class has the default vector of the row. -/
theorem vectorTruthTable : Obligations.VectorTruthTable := by
  refine ⟨fun m hm => resolveVector_reset _ ?_, fun m hm => resolveVector_nmi _ ?_, fun m hm => ?_,
    resolveVector_zero _⟩
  · revert m
    decide
  · revert m
    decide
  · obtain ⟨hmod, hne⟩ : m.toNat % 4 = 0 ∧ m ≠ 0 := by
      revert m
      decide
    exact resolveVector_irqBrk _ hmod hne

end Sys2Proof.Machine
end

section
/-! SUPPORT. The timing unit said once: the readouts as numbers (45_video.md R164-R166), the VID commands as functions
of VID alone (R167), what every other command leaves of the counters (R160), and the position in the frame, which a run of
VID.STEP counts up modulo the 341 × 262 dots of a frame (R168). -/

namespace Sys2Proof.Machine

/-! The readouts as numbers -/

theorem toNat_dotResult (d : BitVec 9) : (dotResult d).toNat = d.toNat := BitVec.toNat_setWidth_of_le (by decide)

theorem toInt_lineResult (l : BitVec 10) : (lineResult l).toInt = l.toInt := BitVec.toInt_signExtend_of_le (by decide)

theorem toNat_bitResult (b : Bool) : (bitResult b).toNat = if b then 1 else 0 := by cases b <;> rfl

/-- The line before the first reads as all ones. -/
theorem lineResult_of_eq_neg_one {l : BitVec 10} (h : l.toInt = -1) : lineResult l = 0xFFFF :=
  BitVec.eq_of_toInt_eq ((toInt_lineResult l).trans h)

/-! The commands -/

@[simp] theorem exec_vidRddot (s : State) : exec .vidRddot s = .next (s.respond (dotResult s.vid.dot)) := rfl

@[simp] theorem exec_vidRdline (s : State) : exec .vidRdline s = .next (s.respond (lineResult s.vid.scanline)) := rfl

@[simp] theorem exec_vidPeekfr (s : State) : exec .vidPeekfr s = .next (s.respond (bitResult s.vid.frameReady)) := rfl

/-- A VID command computes the new VID and its response from VID alone. -/
theorem exec_vid_command {i : Instr} (hi : i ∈ [Instr.vidStep, .vidTake, .vidRddot, .vidRdline, .vidPeekfr]) :
    ∃ (next : Vid → Vid) (answer : Vid → BitVec 16),
      ∀ s : State, exec i s = .next ({ s with vid := next s.vid }.respond (answer s.vid)) := by
  fin_cases hi
  · exact ⟨Vid.step, fun _ => 0, exec_vidStep⟩
  · exact ⟨Vid.clearFrameReady, fun v => bitResult v.frameReady, exec_vidTake⟩
  · exact ⟨id, fun v => dotResult v.dot, exec_vidRddot⟩
  · exact ⟨id, fun v => lineResult v.scanline, exec_vidRdline⟩
  · exact ⟨id, fun v => bitResult v.frameReady, exec_vidPeekfr⟩

/-- A command that does not step leaves the counters; VID.TAKE changes the flag alone. -/
theorem Effect.counters_eq {i : Instr} {s t : State} (e : Effect i s t) (hi : i ≠ .vidStep) :
    t.vid.dot = s.vid.dot ∧ t.vid.scanline = s.vid.scanline := by
  cases e with
  | vidStep h => exact absurd h hi
  | _ => exact ⟨rfl, rfl⟩

/-! The position in the frame -/

/-- The number of dots from the frame's first position (0, -1) to the position of `v`. -/
def Vid.pos (v : Vid) : Nat := (v.scanline.toInt + 1).toNat * 341 + v.dot.toNat

section
variable {v w : Vid}

theorem pos_lt_frameDots (h : v.inRange) : v.pos < frameDots := by
  obtain ⟨hdot, hlo, hhi⟩ := h
  rw [Vid.pos, frameDots]
  omega

/-- The frame wraps at its last position. -/
theorem pos_eq_last_iff (h : v.inRange) : v.pos = frameDots - 1 ↔ v.dot.toNat = 340 ∧ v.scanline.toInt = 260 := by
  obtain ⟨hdot, hlo, hhi⟩ := h
  rw [Vid.pos, frameDots]
  omega

/-- In range, the position and the flag determine VID. -/
theorem eq_of_pos_eq (hv : v.inRange) (hw : w.inRange) (hpos : v.pos = w.pos) (hready : v.frameReady = w.frameReady) :
    v = w := by
  obtain ⟨dot, line, ready⟩ := v
  obtain ⟨dot', line', ready'⟩ := w
  obtain ⟨hd, hlo, -⟩ := hv
  obtain ⟨hd', hlo', -⟩ := hw
  simp only [Vid.pos] at *
  rw [Vid.mk.injEq]
  exact ⟨BitVec.eq_of_toNat_eq (by omega), BitVec.eq_of_toInt_eq (by omega), hready⟩

/-- A step moves the position by one around the frame. -/
theorem pos_step (h : v.inRange) : v.step.pos = (v.pos + 1) % frameDots := by
  obtain ⟨hdot, hlo, hhi⟩ := h
  by_cases hd : v.dot.toNat = 340
  · by_cases hl : v.scanline.toInt = 260
    · rw [step_of_wrap hd hl, Vid.pos, Vid.pos, hd, hl]
      decide
    · have hline := toInt_line_succ hlo (show v.scanline.toInt < 261 by omega)
      rw [step_of_line_lt hd hl]
      simp only [Vid.pos, hline, hd, frameDots, show (0 : BitVec 9).toNat = 0 from rfl]
      omega
  · rw [step_of_dot_lt hd]
    simp only [Vid.pos, toNat_dot_succ (show v.dot.toNat < 341 by omega), frameDots]
    omega

/-! Runs of steps -/

theorem inRange_iterate_step (h : v.inRange) (n : Nat) : (Vid.step^[n] v).inRange := by
  induction n with
  | zero => exact h
  | succ n ih =>
    rw [Function.iterate_succ_apply']
    exact inRange_step ih

/-- `n` steps move the position by `n` around the frame. -/
theorem pos_iterate_step (h : v.inRange) (n : Nat) : (Vid.step^[n] v).pos = (v.pos + n) % frameDots := by
  induction n with
  | zero => rw [Function.iterate_zero_apply, Nat.add_zero, Nat.mod_eq_of_lt (pos_lt_frameDots h)]
  | succ n ih =>
    rw [Function.iterate_succ_apply', pos_step (inRange_iterate_step h n), ih, Nat.mod_add_mod, Nat.add_assoc]

/-- After `n` steps the flag is set if it was, or if the run reached the frame's end. -/
theorem frameReady_iterate_step_iff (h : v.inRange) (n : Nat) :
    (Vid.step^[n] v).frameReady = true ↔ v.frameReady = true ∨ frameDots ≤ v.pos + n := by
  have hlt := pos_lt_frameDots h
  induction n with
  | zero => simp [Nat.not_le.2 hlt]
  | succ n ih =>
    have hpos := pos_iterate_step h n
    rw [Function.iterate_succ_apply', frameReady_step_iff, ← pos_eq_last_iff (inRange_iterate_step h n), hpos,
      or_congr_left ih, or_assoc]
    refine or_congr_right ?_
    by_cases hn : v.pos + n < frameDots
    · rw [Nat.mod_eq_of_lt hn]
      omega
    · exact iff_of_true (.inl (by omega)) (by omega)

/-- One frame of steps brings the counters back and leaves the flag set. -/
theorem iterate_step_frameDots (h : v.inRange) : Vid.step^[frameDots] v = { v with frameReady := true } := by
  have hpos : (Vid.step^[frameDots] v).pos = v.pos := by
    rw [pos_iterate_step h, Nat.add_mod_right, Nat.mod_eq_of_lt (pos_lt_frameDots h)]
  have hready := (frameReady_iterate_step_iff h frameDots).2 (.inr (Nat.le_add_left _ _))
  exact eq_of_pos_eq (inRange_iterate_step h _) h hpos hready

end

/-- A run of one VID.STEP or more steps VID as often and answers (OK, 0). -/
theorem execAll_replicate_vidStep_succ (n : Nat) (s : State) :
    execAll (List.replicate (n + 1) .vidStep) s = .next ({ s with vid := Vid.step^[n + 1] s.vid }.respond 0) := by
  induction n generalizing s with
  | zero => rfl
  | succ n ih =>
    rw [List.replicate_succ, execAll, exec_vidStep]
    exact ih _

/-- A run of VID.STEP, an empty one too, steps VID as often. -/
theorem execAll_replicate_vidStep (n : Nat) (s : State) :
    ∃ t, execAll (List.replicate n .vidStep) s = .next t ∧ t.vid = Vid.step^[n] s.vid := by
  cases n with
  | zero => exact ⟨s, rfl, rfl⟩
  | succ n => exact ⟨_, execAll_replicate_vidStep_succ n s, rfl⟩

/-- The commands of a frame bring the counters back and leave the flag set. -/
theorem execAll_replicate_frameDots {s : State} (h : s.vid.inRange) :
    execAll (List.replicate frameDots .vidStep) s =
      .next ({ s with vid := { s.vid with frameReady := true } }.respond 0) := by
  rw [← iterate_step_frameDots h]
  exact execAll_replicate_vidStep_succ (frameDots - 1) s

end Sys2Proof.Machine
end

section
/-! PROOFS of the statements about the timing unit (45_video.md). -/

namespace Sys2Proof.Machine

/-- Settles O36: the flag is set at the step that reaches the frame's end, as many steps away as the position is before
it. -/
theorem oneFrameReturnsAndSetsReadyOnce : Obligations.OneFrameReturnsAndSetsReadyOnce := by
  intro s h hclear
  have hlt := pos_lt_frameDots h
  refine ⟨⟨_, rfl, List.length_replicate, execAll_replicate_frameDots h⟩, frameDots - 1 - s.vid.pos, ?_, ?_, ?_⟩
  · exact Nat.lt_of_le_of_lt (Nat.sub_le _ _) (by decide)
  · intro hdot hline
    have hpos : s.vid.pos = 0 := by
      rw [Vid.pos, hdot, hline]
      rfl
    rw [hpos]
    rfl
  · intro n _
    obtain ⟨t, ht, hvid⟩ := execAll_replicate_vidStep n s
    refine ⟨t, ht, ?_⟩
    rw [hvid, frameReady_iterate_step_iff h, hclear]
    simp only [Bool.false_eq_true, false_or]
    omega

/-- Settles O31: the three cases of a step, each with the counter it moves as a number. -/
theorem vidStepResult : Obligations.VidStepResult := by
  rintro s ⟨-, hlo, -⟩
  refine ⟨toNat_encode _, s.vid.step, exec_vidStep s, fun hd => ?_, fun hd hl => ?_, fun hd hl => ?_⟩
  · rw [step_of_dot_lt (by omega)]
    exact ⟨toNat_dot_succ (by omega), rfl, rfl⟩
  · rw [step_of_line_lt hd (by omega)]
    exact ⟨rfl, toInt_line_succ hlo (by omega), rfl⟩
  · rw [step_of_wrap hd hl]
    exact ⟨rfl, rfl, rfl⟩

/-- Settles O33: the dot is zero-extended, the scanline sign-extended, the flag one bit. -/
theorem vidReadoutResults : Obligations.VidReadoutResults := by
  intro s
  refine ⟨toNat_encode _, toNat_encode _, toNat_encode _, ⟨_, exec_vidRddot s, toNat_dotResult _, ?_⟩,
    ⟨_, exec_vidRdline s, toInt_lineResult _, lineResult_of_eq_neg_one⟩,
    ⟨_, exec_vidPeekfr s, toNat_bitResult _⟩⟩
  rintro ⟨hdot, -⟩
  rwa [toNat_dotResult]

/-- Settles O34: VID.STEP keeps the ranges, and every other command the counters. -/
theorem onlyVidStepMovesTheCounters : Obligations.OnlyVidStepMovesTheCounters := by
  refine ⟨(powerOn_inv Config.defaults).vidInRange, fun i s t h => ?_⟩
  have hkeep := (effect_of_exec h).counters_eq
  refine ⟨hkeep, fun hs => ?_⟩
  by_cases hi : i = .vidStep
  · subst hi
    cases h
    exact inRange_step hs
  · obtain ⟨hdot, hline⟩ := hkeep hi
    rwa [Vid.inRange, hdot, hline]

/-- Settles O32: the answer is the flag as it was, and the second VID.TAKE finds it cleared. -/
theorem vidTakeResult : Obligations.VidTakeResult :=
  fun s => ⟨toNat_encode _, _, rfl, exec_vidTake s, exec_vidTake _⟩

/-- Settles O46: a VID command is a function of VID, and VEC.RESOLVE ends as its set resolves under the parameters. -/
theorem timingAndResolverIgnoreTheRest : Obligations.TimingAndResolverIgnoreTheRest := by
  constructor
  · intro s s' h i hi
    obtain ⟨next, answer, hexec⟩ := exec_vid_command hi
    refine ⟨_, _, hexec s, hexec s', ?_, ?_⟩
    · exact congrArg next h
    · simp only [State.respond_rsp, h]
  · intro s s' m h
    cases hr : resolveVector s.params m with
    | ok v => exact ⟨_, _, exec_vecResolve_of_ok hr, exec_vecResolve_of_ok (h ▸ hr), rfl⟩
    | error e => exact ⟨_, _, exec_vecResolve_of_error hr, exec_vecResolve_of_error (h ▸ hr), rfl⟩

end Sys2Proof.Machine
end

section
/-! SUPPORT. The upper half of a word as a number (46_system.md R183), and what the fault log reads as (R182). -/

namespace Sys2Proof.Machine

/-- The upper half of a word is its number without the lower sixteen bits. -/
theorem toNat_upperHalf (w : Word) : (w.extractLsb' 16 16).toNat = w.toNat / 0x10000 := by
  rw [BitVec.extractLsb'_toNat, Nat.shiftRight_eq_div_pow]
  omega

section
variable {s : State}

/-- The fault log reads, bit by bit, as its bits 3–8. -/
theorem getLsbD_readFaults (n : Nat) :
    s.readFaults.getLsbD n = (decide (3 ≤ n) && decide (n ≤ 8) && s.faults.getLsbD n) := by
  rw [State.readFaults, BitVec.getLsbD_and, getLsbD_faultsImplemented, Bool.and_comm]

/-- With its hardwired bits 0 the fault log reads as it stands. -/
theorem readFaults_eq_faults (h : s.reservedFaultsClear) : s.readFaults = s.faults := by
  calc s.faults &&& faultsImplemented
      = s.faults &&& faultsImplemented ||| s.faults &&& ~~~faultsImplemented := by
        rw [h, BitVec.ofNat_eq_ofNat, BitVec.or_zero]
    _ = s.faults &&& BitVec.allOnes 16 := BitVec.and_or_distrib_left.symm
    _ = s.faults := BitVec.and_allOnes

end

end Sys2Proof.Machine
end

section
/-! PROOFS of the statements about the step and the SYS family (46_system.md). -/

namespace Sys2Proof.Machine

/-- Settles O8: whether the word runs a command or is illegal, the step leaves a response, and the queue and the ports
as the input taken left them. -/
theorem everyStepEndsWithAResponse : Obligations.EveryStepEndsWithAResponse := by
  intro s inp rest h
  cases hd : decode inp.cmd with
  | ok i =>
    obtain ⟨t, hx, e⟩ := exec_effect i (s.accept inp rest)
    obtain ⟨r, hr, -⟩ := e.logs
    obtain ⟨-, hports, hinputs⟩ := e.environment_eq
    exact ⟨t, r, (step_ok h hd).trans hx, hr, hinputs, hports⟩
  | error flaw => exact ⟨_, _, step_error h hd, rfl, rfl, rfl⟩

/-- Settles O6: the command runs in the state that accepted the input. -/
theorem stepRunsTheDecodedCommand : Obligations.StepRunsTheDecodedCommand :=
  ⟨fun _ _ _ _ h hd => step_ok h hd, fun s h => by rw [step, h]⟩

/-- Settles O7: the error is raised in the state that accepted the input; the worked words have a reserved unit and a
nonzero D (O5). -/
theorem illegalWordEndsWithIllegalCommand : Obligations.IllegalWordEndsWithIllegalCommand := by
  obtain ⟨-, -, -, -, -, -, -, -, -, hunit, -, hzero⟩ := knownWordsDecode
  exact ⟨fun _ inp _ _ h hd => ⟨_, toNat_upperHalf inp.cmd, step_error h hd⟩, ⟨_, hunit⟩, ⟨_, hzero⟩⟩

/-- Settles O17: each of the commands needs a cartridge. -/
theorem noCartridgeCheckComesFirst : Obligations.NoCartridgeCheckComesFirst := by
  intro s a d f hc i hi
  refine exec_of_cart_none ?_ hc
  rcases List.mem_append.1 hi with hi | hi
  · fin_cases hi
    · exact .bus a .read
    · exact .bus a .peek
    · exact .bus a (.write d)
    · exact .readPrg a
    · exact .peekPrg a
    · exact .writePrg a d
    · exact .readChr a
    · exact .peekChr a
    · exact .writeChr a d
  · split_ifs at hi with hf
    · cases hi
    · rw [List.mem_singleton.1 hi]
      exact .info f hf

/-- Settles O37: the answer is what the log reads as, and the log stays. -/
theorem sysFaultsResult : Obligations.SysFaultsResult :=
  fun s => ⟨toNat_encode _, s.readFaults, rfl, fun n _ => getLsbD_readFaults n, readFaults_eq_faults⟩

end Sys2Proof.Machine
end

section
/-! SUPPORT. The two classes of errors (46_system.md R184): a step that does not end with OK is the raise of its error in
the state that accepted the input, and what the fault log takes from a status of each class. -/

namespace Sys2Proof.Machine

/-- A command that does not end with OK did nothing but raise an error. -/
theorem Effect.eq_raise_of_not_ok {i : Instr} {s t : State} {r : Response} (e : Effect i s t) (hr : t.rsp = some r)
    (hne : r.status ≠ .ok) : ∃ err, t = s.raise err := by
  cases e with
  | raise err _ => exact ⟨err, rfl⟩
  | _ =>
    obtain rfl := Option.some.inj hr
    exact absurd rfl hne

/-- A step that does not end with OK took its input and did nothing but raise an error. -/
theorem step_eq_raise_of_not_ok {s t : State} {r : Response} (h : step s = .next t) (hr : t.rsp = some r)
    (hne : r.status ≠ .ok) : ∃ inp rest err, t = (s.accept inp rest).raise err := by
  obtain ⟨inp, rest, -, ⟨i, -, hx⟩ | ⟨_, -, rfl⟩⟩ := step_cases h
  · exact ⟨inp, rest, (effect_of_exec hx).eq_raise_of_not_ok hr hne⟩
  · exact ⟨inp, rest, _, rfl⟩

/-- The statuses other than OK that are not logged have the codes 1 and 2. -/
theorem code_of_unlogged {st : Status} (hne : st ≠ .ok) (h : st.logged = false) : st.code.toNat ∈ [1, 2] := by
  cases st with
  | ok => exact absurd rfl hne
  | malformedHeader | unsupportedMapper => decide
  | _ => exact nomatch h

/-- The logged statuses have the codes 3–8. -/
theorem code_of_logged {st : Status} (h : st.logged = true) : st.code.toNat ∈ [3, 4, 5, 6, 7, 8] := by
  cases st with
  | ok | malformedHeader | unsupportedMapper => exact nomatch h
  | _ => decide

/-- Logging a logged status sets the bit of its code, here the power of two as a number cast to 16 bits. -/
theorem logFault_logged (f : BitVec 16) {st : Status} (h : st.logged = true) :
    logFault f st = f ||| 1 <<< st.code.toNat := by
  have hbit : 1#16 <<< st.code.toNat = ((1 <<< st.code.toNat : Nat) : BitVec 16) :=
    BitVec.eq_of_toNat_eq (by simp)
  rw [logFault, Status.faultBit, if_pos h, hbit]

end Sys2Proof.Machine
end

section
/-! PROOFS of the statements about errors (60_exceptions.md). -/

namespace Sys2Proof.Machine

/-- Settles O39: the step is the raise of its error, which changes nothing but the response and FAULTS, and there logs the
status. -/
theorem errorsArePrecise : Obligations.ErrorsArePrecise := by
  intro s t r h hr hne
  obtain ⟨inp, rest, err, rfl⟩ := step_eq_raise_of_not_ok h hr hne
  refine ⟨rfl, rfl, rfl, rfl, rfl, rfl, ?_⟩
  obtain ⟨_, hr', hfaults⟩ := step_logs h
  obtain rfl := Option.some.inj (hr.symm.trans hr')
  rw [hfaults]
  cases hlog : r.status.logged with
  | false => exact .inl ⟨code_of_unlogged hne hlog, logFault_unlogged _ _ hlog⟩
  | true => exact .inr ⟨code_of_logged hlog, logFault_logged _ hlog⟩

end Sys2Proof.Machine
end

section
/-! PROOFS of the statements about reset (70_reset_and_hazards.md). -/

namespace Sys2Proof.Machine

/-- Settles O42: taking an input touches the ports and the queue, and no effect of a command, nor an illegal word's
error, touches a parameter. -/
theorem noStepChangesAParameter : Obligations.NoStepChangesAParameter := by
  intro s t h
  obtain ⟨inp, rest, -, ⟨i, -, hx⟩ | ⟨_, -, rfl⟩⟩ := step_cases h
  · obtain ⟨hparams, -, -⟩ := (effect_of_exec hx).environment_eq
    rw [hparams, State.accept_params]
  · rw [State.raise_params, State.accept_params]

/-- Settles O9: every part but RAM stands in the power-on state as written, and RAM, with no store yet, reads RAM_INIT. -/
theorem powerOnState : Obligations.PowerOnState :=
  ⟨fun _ => ⟨rfl, rfl, rfl, rfl, rfl, read_nil, rfl⟩, rfl⟩

end Sys2Proof.Machine
end

section
/-! PROOFS of the statements about several families at once. -/

namespace Sys2Proof.Machine

/-- Settles O47: what any effect leaves, for twelve commands that neither load, step nor take; of these the ones on the
bus are BUS.READ and BUS.PEEK, and neither stores. -/
theorem frameOfReadingCommands : Obligations.FrameOfReadingCommands := by
  intro s t a m f i hi h
  have e := effect_of_exec h
  obtain ⟨hparams, hports, hinputs⟩ := e.environment_eq
  have ⟨hkeep, hstep, htake⟩ : changesCart i = false ∧ i ≠ .vidStep ∧ i ≠ .vidTake := by
    fin_cases hi <;> exact ⟨rfl, nofun, nofun⟩
  have hbus : ∀ a', OnBus a' i → i = .busRead a ∨ i = .busPeek a := by
    intro a' hb
    cases hb with
    | read => exact .inl (by simpa using hi)
    | peek => exact .inr (by simpa using hi)
    | write d => simp at hi
  have hram : t.ram = s.ram := e.ram_cases.resolve_right fun ⟨_, _, hw, _⟩ => by simp [hw] at hi
  exact ⟨fun j => by rw [hram], (loadedCartridgeIsImmutable i s t h).1 hkeep, e.vid_eq hstep htake, hparams, hports,
    hinputs, e.faults_frame, fun hread hpeek => e.requests_eq fun a' hb => (hbus a' hb).elim hread hpeek⟩

end Sys2Proof.Machine
end
